-- ==== Sys2Proof/Word.lean ====
section
/-! DEFINITION. The bit vectors of MEXP (R9): a byte of a window, a word of the bus, an offset in the engine's block. -/

namespace Sys2Proof

/-- One byte of an operand window (R28). -/
abbrev Byte := BitVec 8

/-- One bus word, the width of every register and of every access (R9, R52). -/
abbrev Word := BitVec 32

/-- A byte offset from `BASE` in the engine's 64 KiB block (R9, R50). -/
abbrev Offset := BitVec 16

end Sys2Proof
end

