-- ==== Sys2Proof/Syntax.lean ====
section
/-! DEFINITION. The instructions of MEXP are its command words (R3, R80, R81): one constructor per row of the opcode
table. A command has no operand fields, so only the illegal class carries the fields of its word. -/

namespace Sys2Proof

/-- A command word by its meaning (R81, R82). -/
inductive Instr where
  /-- Row `MODEXP`, word 0x00000001 (R120). -/
  | modexp
  /-- Row `KEYGEN`, word 0x00000002 when `HAS_KEYGEN = 1` (R140). -/
  | keygen
  /-- Row `ZEROIZE`, word 0x00000003 (R170). -/
  | zeroize
  /-- Row `ILLEGAL`: any other word, by its two fields `RSVD` (bits 31:4) and `OPCODE` (bits 3:0) (R80, R82). -/
  | illegal (rsvd : BitVec 28) (opcode : BitVec 4)
  deriving DecidableEq, Repr

end Sys2Proof
end

