-- ==== Sys2Proof/WellFormed.lean ====
section
/-! DEFINITION. Which instructions stand for a command word of the engine (R81, R82). The parameter `HAS_KEYGEN`
decides whether `KEYGEN` exists, and with it which words are illegal. -/

namespace Sys2Proof

/-- The words that R82 maps to `ILLEGAL`, by their fields: `RSVD` not 0, or `OPCODE` 0x0, 0x4 to 0xF, or 0x2 without
the key generator. -/
def illegalFields (hasKeygen : Bool) (rsvd : BitVec 28) (opcode : BitVec 4) : Bool :=
  rsvd != 0 || opcode == 0 || 4 ≤ opcode.toNat || (opcode == 2 && !hasKeygen)

/-- `i` is what some command word decodes to on an engine with this `HAS_KEYGEN`. -/
def Instr.wellFormed (hasKeygen : Bool) : Instr → Bool
  | .modexp => true
  | .keygen => hasKeygen
  | .zeroize => true
  | .illegal rsvd opcode => illegalFields hasKeygen rsvd opcode

end Sys2Proof
end

