-- ==== Sys2Proof/Decode.lean ====
section
/-! DEFINITION. The decoder of command words, total on all 2^32 words (R82): a word that is no command is decoded, by
name, to `illegal` with its fields, because the engine gives it a defined effect (R82, R184). Then the encoder, written
from the same format (R80, R81). -/

namespace Sys2Proof

/-- The `OPCODE` field, bits 3:0 (R80). -/
def opcodeField (w : Word) : BitVec 4 := w.extractLsb' 0 4

/-- The `RSVD` field, bits 31:4 (R80). -/
def rsvdField (w : Word) : BitVec 28 := w.extractLsb' 4 28

/-- The decode function of R82, for an engine with this `HAS_KEYGEN`. -/
def decode (hasKeygen : Bool) (w : Word) : Instr :=
  if rsvdField w ≠ 0 then .illegal (rsvdField w) (opcodeField w)
  else if opcodeField w = 0x1 then .modexp
  else if opcodeField w = 0x2 ∧ hasKeygen then .keygen
  else if opcodeField w = 0x3 then .zeroize
  else .illegal (rsvdField w) (opcodeField w)

/-- The command word with these two fields (R80). -/
def commandWord (rsvd : BitVec 28) (opcode : BitVec 4) : Word := rsvd ++ opcode

/-- The command word of an instruction (R81). -/
def encode : Instr → Word
  | .modexp => commandWord 0 0x1
  | .keygen => commandWord 0 0x2
  | .zeroize => commandWord 0 0x3
  | .illegal rsvd opcode => commandWord rsvd opcode

/-- The instruction read from a command of `nbits` bits whose bits are `w`, numbered as the opcode table numbers them.
Every command is one 32-bit word (R80), so there is none of more than 32 bits; the bits above `nbits` are 0. Read with
`HAS_KEYGEN = 1`, the reference value (R7). -/
def decodeTableWord (nbits w : Nat) : Option Instr :=
  if nbits ≤ 32 ∧ w < 2 ^ nbits then some (decode true (BitVec.ofNat 32 w)) else none

end Sys2Proof
end

