-- ==== Sys2Proof/Config.lean ====
section
/-! DEFINITION. The parameters of R7 and R8 (a record that State carries and no step changes, so that a statement about
every state ranges over every legal configuration), and the free values: opaque constants, applied to a counter of
State, which stand for what the spec leaves to another agent. -/

namespace Sys2Proof

/-- An answer of the external RNG to one request (R143): a number, which the request reduces into its range, or
`FAIL`. -/
inductive RngAnswer where
  | value (r : Nat)
  | fail
  deriving DecidableEq, Repr, Inhabited

/-- An answer the RNG has given to a request of the command in flight (R143), with the index of the fresh draw `ρ` that
the primality test of its candidate gets (R157). -/
structure Reply where
  answer : RngAnswer
  draw : Nat
  deriving DecidableEq, Repr

/-- The four agents (R13). Each has its own step. -/
inductive Agent where
  /-- One statement of the host's program: at most one bus access (R13.1, R58). -/
  | host
  /-- The completion step of the command in flight (R13.2, R103). -/
  | engine
  /-- The answer to the RNG request of the command in flight (R13.3, R143). -/
  | rng
  /-- The reset input (R13.4, R210). -/
  | reset
  deriving DecidableEq, Repr, Inhabited

/-- The parameter `PrimeTest : Nat → Draw → Bool` of R8, as plain data. -/
inductive PrimeTest where
  /-- Exact primality, ignoring the draw: the test the key vectors of `95_test_vectors.md` assume. -/
  | exact
  /-- A deterministic test that accepts exactly these candidates (R157: a configuration may ignore the draw). -/
  | listed (accepted : List Nat)
  /-- Any test at all: its verdict is the free value `Config.freeVerdict`. -/
  | free
  deriving DecidableEq, Repr

/-- The parameters of R7 and R8. Every value of the record is a legal configuration. -/
structure Config where
  /-- `MAXLEN` is `4 * (winWords + 1)` (R7: a multiple of 4 from 4 to 4096). -/
  winWords : Fin 1024
  /-- `HAS_KEYGEN` (R7). -/
  hasKeygen : Bool
  /-- `BASE` is `65536 * baseBlock` (R7, R50: 64 KiB aligned). -/
  baseBlock : Nat
  /-- `KG_ITER_CAP` is `capLess1 + 1` (R7: at least 1). -/
  capLess1 : Nat
  /-- `PrimeTest` (R8). -/
  primeTest : PrimeTest
  deriving DecidableEq, Repr

/-- `MAXLEN`, the capacity of each window in bytes (R7). -/
def Config.maxlen (c : Config) : Nat := 4 * (c.winWords.val + 1)

/-- `BASE`, the bus address of offset 0x0000 (R7). -/
def Config.base (c : Config) : Nat := 65536 * c.baseBlock

/-- `KG_ITER_CAP`, the largest number of RNG requests of one `KEYGEN` (R7, R144). -/
def Config.kgIterCap (c : Config) : Nat := c.capLess1 + 1

/-- FREE VALUE: the agent that moves when State's list of turns is used up (R62, R105). -/
opaque Config.freeAgent : Nat → Agent

/-- FREE VALUE: how many turns after State's list of turns the agents take before the one a command in flight waits for
gets the next (R105: any finite number, weak fairness). -/
opaque Config.freeDelay : Nat → Nat

/-- FREE VALUE: the RNG's answer when State's list of answers is used up (R143). -/
opaque Config.freeAnswer : Nat → RngAnswer

/-- FREE VALUE: the fresh draw `ρ` of one call of the primality test (R157). -/
opaque Config.freeDraw : Nat → Nat

/-- FREE VALUE: the verdict of the test `PrimeTest.free` on a candidate and a draw (R8, R157). -/
opaque Config.freeVerdict : Nat → Nat → Bool

/-- FREE VALUE: the word that a host read outside the engine's block returns (another device's word, R50). -/
opaque Config.freeWord : Nat → BitVec 32

end Sys2Proof
end

