-- ==== Sys2Proof/Machine/State.lean ====
section
/-! DEFINITION. The state of MEXP as plain data (R20): the registers' fields, the windows and the phase, as the spec
gives them; the parameters (R7, R8); and the other agents (R13) as data the step reads. Also the reasons a step can
stop, and the state after reset (R35). -/

namespace Sys2Proof.Machine

/-- A command the sequencer can be busy with (R31). -/
inductive Op where
  | modexp
  | keygen
  | zeroize
  deriving DecidableEq, Repr

/-- The hidden sequencer state (R31). `STATUS.BUSY` is 1 exactly when it is `busy`. -/
inductive Phase where
  | idle
  | busy (op : Op)
  deriving DecidableEq, Repr

/-- The six operand windows (R28). -/
inductive Window where
  | x
  | k
  | n
  | r
  | eOut
  | dOut
  deriving DecidableEq, Repr

/-- The completion codes that are produced (R84). -/
inductive Code where
  | ok
  | messageOutOfRange
  | modulusEven
  | lengthInvalid
  | illegalCommand
  | keygenIterationCap
  | rngFailure
  deriving DecidableEq, Repr

/-- A statement of a host program (R86), with the platform address it accesses (`BASE` plus an offset for this
engine). -/
inductive HostStmt where
  /-- `WR`: one bus write. -/
  | wr (addr : Nat) (w : Word)
  /-- `RD`: one bus read, whose word the host keeps. -/
  | rd (addr : Nat)
  /-- `POLL`: reads again, one bus read a step, until the masked word is the value. -/
  | poll (addr : Nat) (mask value : Word)
  /-- `WAITIRQ`: waits for the interrupt line, with no bus access. -/
  | waitIrq
  deriving DecidableEq, Repr

/-- The windows' bytes as a sparse list, by bus offset. Canonical form: offsets strictly rising, no zero byte listed
(an unlisted byte reads as 0, the reset value of R28). -/
abbrev Memory := List Host.Cell

/-- The whole machine. -/
@[ext]
structure State where
  /-- `CTRL.IRQ_EN` (R23). -/
  irqEn : Bool
  /-- `CTRL.EMODE` (R23): false is fixed `e`, true is random `e`. -/
  emode : Bool
  /-- `STATUS.DONE` (R25). -/
  done : Bool
  /-- `STATUS.WERR` (R25). -/
  werr : Bool
  /-- `STATUS.ERRCODE` (R25, R84). -/
  errcode : BitVec 4
  /-- `STATUS.LASTOP` (R25). -/
  lastop : BitVec 4
  /-- `LEN[15:0]`, the operand length in bytes (R26). -/
  len : BitVec 16
  /-- `KBITS[15:0]`, the key bit length (R27). -/
  kbits : BitVec 16
  /-- The windows (R28): byte `i` of window `W` stands at its bus offset (R51). -/
  mem : Memory
  /-- The sequencer (R31). -/
  phase : Phase
  /-- The answers the RNG has given to the requests of the KEYGEN in flight, in request order (R143, R154). The
  temporaries of R32 are what the search makes of them: the attempts made are their number, and one more while a request
  is unanswered. -/
  replies : List Reply
  /-- The parameters (R7, R8). No step changes them. -/
  config : Config
  /-- The model's own: the host's statements still to run (R13.1, R86). -/
  program : List HostStmt
  /-- The model's own: the words the host's `RD` statements returned, oldest first (R86). -/
  reads : List Word
  /-- The model's own: whose turn it is, oldest first (R62); used up, the next agent is a free value. -/
  turns : List Agent
  /-- The model's own: how many turns after that list are the other agents' before the agent that the command in flight
  waits for gets one (R105: weak fairness). -/
  patience : Nat
  /-- The model's own: the answers the RNG is going to give, in order (R143, R154); used up, the next answer is a free
  value. -/
  answers : List RngAnswer
  /-- The model's own: how many free values were taken, the argument of the opaque constants of Config. -/
  fresh : Nat
  deriving DecidableEq, Repr

/-- The reasons the machine stops with a fault: none. No access faults (R52), the engine takes no traps, and every error
is a completion code (R180). Safe: nothing is left out that the spec gives. -/
inductive Fault where
  deriving DecidableEq, Repr

/-- The reasons a step is refused. -/
inductive Refusal where
  /-- An instruction without a meaning. No arm of `exec` raises it: every instruction has its meaning. Safe. -/
  | notModelled (mnemonic : String)
  deriving DecidableEq, Repr

/-- The outcome of a step or of a bus write. -/
abbrev Outcome := Host.Outcome State Fault Refusal

/-- The configuration of the reset state: the reference values of R7 (`MAXLEN = 512`, `HAS_KEYGEN = 1`); where R7 fixes
none, DESIGN CHOICE (log entry 4) `BASE = 0` and the vectors' `KG_ITER_CAP = 100`; and the free primality test. -/
def Config.reference : Config :=
  { winWords := 127, hasKeygen := true, baseBlock := 0, capLess1 := 99, primeTest := .free }

/-- The machine right after reset (R35, R211): every field of the engine at the value R35 states. DESIGN CHOICE (log
entries 1, 2, 3, 6): the other agents' fields are empty or 0. -/
def State.reset : State :=
  { irqEn := false, emode := false
    done := false, werr := false, errcode := 0, lastop := 0
    len := 0, kbits := 0
    mem := []
    phase := .idle, replies := []
    config := Config.reference
    program := [], reads := [], turns := [], patience := 0, answers := [], fresh := 0 }

end Sys2Proof.Machine
end

