-- ==== Sys2Proof/Machine/Ops.lean ====
section
/-! DEFINITION. The named operations over memory and registers: reading, writing and filling the windows' bytes, the
command life cycle of R100 to R104 (`complete` takes the place of taking an exception: R12, R180), and the reset event
of R210. -/

namespace Sys2Proof.Machine

/-- The byte at a bus offset; an unlisted one is 0, its reset value (R28). -/
def Memory.read : Memory → Nat → Byte
  | [], _ => 0
  | (b, u) :: m, a => if a = b then u else if a < b then 0 else Memory.read m a

/-- Puts a byte at the head of a list whose offsets are all greater; a zero byte is left unlisted. -/
def Memory.push (a : Nat) (v : Byte) (m : Memory) : Memory :=
  if v = 0 then m else (a, v) :: m

/-- Writes one byte, keeping the canonical form. -/
def Memory.write : Memory → Nat → Byte → Memory
  | [], a, v => Memory.push a v []
  | (b, u) :: m, a, v =>
    if a < b then Memory.push a v ((b, u) :: m)
    else if a = b then Memory.push a v m
    else (b, u) :: Memory.write m a v

/-- Writes the `n` bytes at `b .. b+n-1`, byte `i` of them being `f i`. -/
def Memory.fill (m : Memory) (b : Nat) (f : Nat → Byte) : Nat → Memory
  | 0 => m
  | n + 1 => (Memory.fill m b f n).write (b + n) (f n)

/-- Makes the `n` bytes at `b .. b+n-1` zero: they are no longer listed. -/
def Memory.clear : Memory → Nat → Nat → Memory
  | [], _, _ => []
  | (a, u) :: m, b, n => if b ≤ a ∧ a < b + n then Memory.clear m b n else (a, u) :: Memory.clear m b n

/-- The canonical form: offsets strictly rising from `lo` on, no zero byte listed. -/
def Memory.wfFrom : Nat → Memory → Bool
  | _, [] => true
  | lo, (b, u) :: m => decide (lo ≤ b) && u != 0 && Memory.wfFrom (b + 1) m

/-- The canonical form of memory. -/
def Memory.wf (m : Memory) : Bool := Memory.wfFrom 0 m

/-- The bus offset of a window's byte 0 (R28, R51). -/
def Window.base : Window → Nat
  | .x => 0x1000
  | .k => 0x2000
  | .n => 0x3000
  | .r => 0x4000
  | .eOut => 0x5000
  | .dOut => 0x6000

/-- The windows the host may write (R28). -/
def Window.hostWritable : Window → Bool
  | .x => true
  | .k => true
  | .n => true
  | .r => false
  | .eOut => false
  | .dOut => false

/-- The windows an engine has: `E_OUT` and `D_OUT` only with the key generator (R28, R53). -/
def Window.present (hasKeygen : Bool) : Window → Bool
  | .x => true
  | .k => true
  | .n => true
  | .r => true
  | .eOut => hasKeygen
  | .dOut => hasKeygen

/-- `win[W][i]` (R12, R28). -/
def State.win (s : State) (W : Window) (i : Nat) : Byte := s.mem.read (W.base + i)

/-- The same machine with other window bytes. -/
def State.withMem (s : State) (m : Memory) : State := { s with mem := m }

/-- Sets `n` bytes of window `W` from index `o` on: `win[W][o+i] <- f i`. -/
def State.setWin (s : State) (W : Window) (o : Nat) (f : Nat → Byte) (n : Nat) : State :=
  s.withMem (s.mem.fill (W.base + o) f n)

/-- `win[W][i] <- 0` for every byte of the window (R170). -/
def State.clearWin (s : State) (W : Window) : State :=
  s.withMem (s.mem.clear W.base s.config.maxlen)

/-- `LEN[15:0] <- L` (R26, R151). -/
def State.setLen (s : State) (L : BitVec 16) : State := { s with len := L }

/-- The number of a completion code (R84). -/
def Code.bits : Code → BitVec 4
  | .ok => 0x0
  | .messageOutOfRange => 0x1
  | .modulusEven => 0x2
  | .lengthInvalid => 0x3
  | .illegalCommand => 0x4
  | .keygenIterationCap => 0x8
  | .rngFailure => 0x9

/-- `complete(code)` (R104): the one way a command ends, apart from reset. `STATUS.BUSY` falls with `phase` (R31). -/
def State.complete (s : State) (code : Code) : State :=
  { s with done := true, errcode := code.bits, phase := .idle }

/-- The first three writes of a start (R100): `DONE` and `ERRCODE` cleared, `LASTOP` recorded. `WERR` stays. -/
def State.beginCommand (s : State) (opcode : BitVec 4) : State :=
  { s with done := false, errcode := 0, lastop := opcode }

/-- The rest of a start after validation gave `code` (R100 to R102): busy when it passes, completed with the code when
it fails. -/
def State.afterValidation (s : State) (op : Op) (code : Code) : State :=
  if code = .ok then { s with phase := .busy op } else s.complete code

/-- The start of a command whose opcode is `opcode` and whose validation gave `code` (R100). -/
def State.start (s : State) (op : Op) (opcode : BitVec 4) (code : Code) : State :=
  (s.beginCommand opcode).afterValidation op code

/-- The start of an illegal word (R100, R101, R184): it completes at once with `IllegalCommand`. -/
def State.startIllegal (s : State) (opcode : BitVec 4) : State :=
  (s.beginCommand opcode).complete .illegalCommand

/-- A write dropped because the engine is busy (R58, R215). -/
def State.dropWrite (s : State) : State := { s with werr := true }

/-- The answers given to a command cease to be (R153), or none is given yet (R144). -/
def State.clearReplies (s : State) : State := { s with replies := [] }

/-- The reset event (R210): every register and window to its reset value, the command in flight and its RNG request
abandoned. The parameters and the other agents are not the engine's state (R20). -/
def State.resetEngine (s : State) : State :=
  { State.reset with
    config := s.config, program := s.program, reads := s.reads
    turns := s.turns, patience := s.patience, answers := s.answers, fresh := s.fresh }

end Sys2Proof.Machine
end

