-- ==== Sys2Proof/Machine/Operands.lean ====
section
/-! DEFINITION. Byte strings and operands: the big-endian value of a window (R11, R29), the output write (R30), the
lanes of a window's word (R54), and the operand assembly of each command (R83). -/

namespace Sys2Proof.Machine

/-- `Σ_{i<L} f i * 256^(L-1-i)`: the big-endian value of the `L` bytes `f 0 .. f (L-1)` (R11). -/
def beValue (f : Nat → Byte) : Nat → Nat
  | 0 => 0
  | L + 1 => beValue f L * 256 + (f L).toNat

/-- Byte `i` of `BE_L(v)` (R11): the big-endian bytes of `v`, zero-padded on the left. -/
def beByte (L v i : Nat) : Byte := BitVec.ofNat 8 (v / 256 ^ (L - 1 - i))

/-- `val(W, L)` (R29): the operand value of window `W` at length `L`. -/
def State.val (s : State) (W : Window) (L : Nat) : Nat := beValue (s.win W) L

/-- `put(W, L, v)` (R30): `BE_L(v)` in bytes `0 .. L-1`, zero in bytes `L .. MAXLEN-1`. Bytes from `MAXLEN` on do not
exist (R28), so none is written. -/
def State.put (s : State) (W : Window) (L v : Nat) : State :=
  (s.clearWin W).setWin W 0 (beByte L v) (min L s.config.maxlen)

/-- Byte `i` of a bus word, byte 0 being bits 31:24 (R54). -/
def laneByte (w : Word) (i : Nat) : Byte := w.extractLsb' (24 - 8 * i) 8

/-- The word at byte offset `o` of window `W` (R54, R58). -/
def State.winWord (s : State) (W : Window) (o : Nat) : Word :=
  s.win W o ++ s.win W (o + 1) ++ s.win W (o + 2) ++ s.win W (o + 3)

/-- Writes the word at byte offset `o` of window `W` (R54, R58). -/
def State.setWinWord (s : State) (W : Window) (o : Nat) (w : Word) : State :=
  s.setWin W o (laneByte w) 4

/-- `L = LEN[15:0]` (R83). -/
def State.opLen (s : State) : Nat := s.len.toNat

/-- `x = val(X, L)` (R83). -/
def State.opX (s : State) : Nat := s.val .x s.opLen

/-- `k = val(K, L)` (R83). -/
def State.opK (s : State) : Nat := s.val .k s.opLen

/-- `n = val(N, L)` (R83). -/
def State.opN (s : State) : Nat := s.val .n s.opLen

/-- `K = KBITS[15:0]` (R83, R141). -/
def State.keyBits (s : State) : Nat := s.kbits.toNat

/-- `ceil(K / 8)`, the width of a key of `K` bits (R55, R151). -/
def keyLen (K : Nat) : Nat := (K + 7) / 8

end Sys2Proof.Machine
end

