-- ==== Sys2Proof/Machine/Flags.lean ====
section
/-! DEFINITION. The registers as words and the status flags: the words reads return (R21 to R27, R85), the effects of
register writes (R23, R25 to R27), `STATUS.BUSY` (R31) and the interrupt line (R33, R193). -/

namespace Sys2Proof.Machine

/-- One bit as a word (R10). -/
def bitWord (b : Bool) : Word := if b then 1 else 0

/-- `STATUS.BUSY`: the phase is `Busy(_)` (R31). -/
def State.isBusy (s : State) : Bool :=
  match s.phase with
  | .idle => false
  | .busy _ => true

/-- The interrupt line: `STATUS.DONE ∧ CTRL.IRQ_EN` (R33, R193). -/
def State.irq (s : State) : Bool := s.done && s.irqEn

/-- `ID` (R21). -/
def idWord : Word := 0x4D455801

/-- `CFG` (R22): `MAXLEN` in bits 15:0, `HAS_KEYGEN` in bit 16. -/
def cfgWord (c : Config) : Word := BitVec.ofNat 32 c.maxlen ||| (bitWord c.hasKeygen <<< 16)

/-- `CTRL` as a read returns it (R23, R58): `IRQ_EN` in bit 0, `EMODE` in bit 1, which reads 0 without the key
generator. -/
def State.ctrlWord (s : State) : Word :=
  bitWord s.irqEn ||| (bitWord (s.emode && s.config.hasKeygen) <<< 1)

/-- `STATUS` as a read returns it (R85). -/
def State.statusWord (s : State) : Word :=
  (s.lastop.setWidth 32 <<< 8) ||| (s.errcode.setWidth 32 <<< 4) ||| (bitWord s.werr <<< 2)
    ||| (bitWord s.done <<< 1) ||| bitWord s.isBusy

/-- `LEN` as a read returns it (R26, R58). -/
def State.lenWord (s : State) : Word := s.len.setWidth 32

/-- `KBITS` as a read returns it (R27, R58): 0 without the key generator. -/
def State.kbitsWord (s : State) : Word := if s.config.hasKeygen then s.kbits.setWidth 32 else 0

/-- The write rule of `STATUS` (R25): bits 1 and 2 clear `DONE` and `WERR`; every other bit is ignored. -/
def State.writeStatus (s : State) (w : Word) : State :=
  { s with done := s.done && !w.getLsbD 1, werr := s.werr && !w.getLsbD 2 }

/-- A write of `CTRL` (R23, R58): `EMODE` is written only with the key generator. -/
def State.writeCtrl (s : State) (w : Word) : State :=
  { s with irqEn := w.getLsbD 0, emode := if s.config.hasKeygen then w.getLsbD 1 else s.emode }

/-- A write of `LEN` (R26): bits 15:0 as written. -/
def State.writeLen (s : State) (w : Word) : State := s.setLen (w.extractLsb' 0 16)

/-- A write of `KBITS` (R27, R58): bits 15:0 as written, only with the key generator. -/
def State.writeKbits (s : State) (w : Word) : State :=
  { s with kbits := if s.config.hasKeygen then w.extractLsb' 0 16 else s.kbits }

end Sys2Proof.Machine
end

