-- ==== Sys2Proof/Machine/Illegal.lean ====
section
/-! DEFINITION. The illegal class (R82, R101, R184): a defined effect, completion with `IllegalCommand`. -/

namespace Sys2Proof.Machine

/-- An illegal word: from idle, it completes at once with code 4, and `LASTOP` records its low four bits (R100, R184);
while a command is in flight it is dropped (R106). Its `RSVD` field has no further effect (R82). -/
def execIllegal (_rsvd : BitVec 28) (opcode : BitVec 4) (s : State) : Outcome :=
  match s.phase with
  | .idle => .next (s.startIllegal opcode)
  | .busy _ => .next s.dropWrite

end Sys2Proof.Machine
end

