-- ==== Sys2Proof/Machine/Arith.lean ====
section
/-! DEFINITION. The arithmetic of the commands on unbounded naturals (R10): square-and-multiply (R122), the totient
(R147), the inverse (R150) and the primality test (R8, R157). -/

namespace Sys2Proof.Machine

/-- Square-and-multiply from the least significant bit, over `bits` bits of `k`, modulo `n` (R122). -/
def powLoop (n : Nat) : Nat → Nat → Nat → Nat → Nat
  | 0, _, _, acc => acc
  | bits + 1, base, k, acc =>
    powLoop n bits (base * base % n) (k / 2) (if k % 2 = 1 then acc * base % n else acc)

/-- `x^k mod n` for a `k` of at most `bits` bits: the accumulator starts at 1, reduced modulo `n` (R122, R123). -/
def modPow (bits x k n : Nat) : Nat := powLoop n bits (x % n) k (1 % n)

/-- `λ = lcm(p-1, q-1)` (R147). -/
def totient (p q : Nat) : Nat := Nat.lcm (p - 1) (q - 1)

/-- The inverse of `a` modulo `m` for `a < m` coprime to `m`, by Euclid's steps: from the inverse `t` of `m mod a`
modulo `a`, the inverse of `a` is `(m * (a - t) + 1) / a`. `fuel` bounds the steps. -/
def invLoop : Nat → Nat → Nat → Nat
  | 0, a, _ => a
  | fuel + 1, a, m => if a ≤ 1 then a else (m * (a - invLoop fuel (m % a) a) + 1) / a

/-- `inv(e, m)` (R10, R150): the `d` in `[0, m)` with `(e * d) mod m = 1` when `gcd(e, m) = 1`. Any correct method gives
the same `d` (R150). -/
def modInv (e m : Nat) : Nat := invLoop m (e % m) m

/-- No divisor of `c` from `d` on: trial division while `d * d ≤ c`, at most `fuel` divisors. -/
def noDivisorFrom : Nat → Nat → Nat → Bool
  | 0, _, _ => true
  | fuel + 1, d, c => if c < d * d then true else c % d != 0 && noDivisorFrom fuel (d + 1) c

/-- Exact primality by trial division, the test the key vectors assume. -/
def isPrime (c : Nat) : Bool := decide (2 ≤ c) && noDivisorFrom c 2 c

/-- `PrimeTest(c, ρ)` (R8, R157). -/
def primeVerdict (t : PrimeTest) (c draw : Nat) : Bool :=
  match t with
  | .exact => isPrime c
  | .listed accepted => accepted.contains c
  | .free => Config.freeVerdict c draw

end Sys2Proof.Machine
end

