-- ==== Sys2Proof/Machine/Keygen.lean ====
section
/-! DEFINITION. KEYGEN (R140 to R157): its validation, the RNG port, the search for a key under the attempt cap, its
outputs, and its meaning as a command. The temporaries of R32 are arguments of the search, which runs on the answers the
RNG has given; they exist nowhere else (R153). -/

namespace Sys2Proof.Machine

/-- `validate(KEYGEN)` (R142). -/
def validateKeygen (s : State) : Code :=
  if s.keyBits % 2 ≠ 0 ∨ s.keyBits < 24 ∨ 8 * s.config.maxlen < s.keyBits then .lengthInvalid
  else .ok

/-- An answer in the requested range `[0, bound)`, or `FAIL` (R143): any number an RNG gives, reduced into the range. -/
def answerBelow (bound : Nat) : RngAnswer → Option Nat
  | .value r => some (r % bound)
  | .fail => none

/-- What the search draws next: a candidate for `p`; for `q`, with `p` found; or for a random `e`, with the pair found
(R145, R146, R149). -/
inductive Goal where
  | drawP
  | drawQ (p : Nat)
  | drawE (p q : Nat)
  deriving DecidableEq, Repr

/-- What one answered request leads to: a further request, or the key. -/
inductive Progress where
  | more (goal : Goal)
  | key (p q e : Nat)
  deriving DecidableEq, Repr

/-- How far a search has come: it waits for the answer to a request, or it has ended with a key, or with a code of
R144. -/
inductive Found where
  | waiting (goal : Goal)
  | key (p q e : Nat)
  | failed (code : Code)
  deriving DecidableEq, Repr

/-- The bound of a request: `2^(K/2)` for `RngBits(K/2)`, `λ` for `RngBelow(λ)` (R143, R145, R149). -/
def Goal.bound (K : Nat) : Goal → Nat
  | .drawP => 2 ^ (K / 2)
  | .drawQ _ => 2 ^ (K / 2)
  | .drawE p q => totient p q

/-- `c = r OR 2^(b-1) OR 1` (R145). -/
def candidate (b r : Nat) : Nat := r ||| 2 ^ (b - 1) ||| 1

/-- The tests on a drawn pair, in the order of R146: equal primes, top bit, and for a fixed exponent the gcd. A rejected
pair is drawn anew, `p` first; an accepted one goes on to `e` (R148, R149). -/
def afterPair (K : Nat) (emode : Bool) (p q : Nat) : Progress :=
  if p = q then .more .drawP
  else if (p * q).testBit (K - 1) = false then .more .drawP
  else if emode then .more (.drawE p q)
  else if Nat.gcd 65537 (totient p q) ≠ 1 then .more .drawP
  else .key p q 65537

/-- What the search does with the answer `r` to its request and the draw of the primality test (R145, R146, R149). -/
def advance (test : PrimeTest) (K : Nat) (emode : Bool) (goal : Goal) (r draw : Nat) : Progress :=
  match goal with
  | .drawP =>
    if primeVerdict test (candidate (K / 2) r) draw then .more (.drawQ (candidate (K / 2) r))
    else .more .drawP
  | .drawQ p =>
    if primeVerdict test (candidate (K / 2) r) draw then afterPair K emode p (candidate (K / 2) r)
    else .more (.drawQ p)
  | .drawE p q => if Nat.gcd r (totient p q) = 1 then .key p q r else .more (.drawE p q)

/-- The search with `left` attempts left, on the answers given to its requests so far (R144, R154, R156): the cap is
checked before a request is made, and every request is an attempt. -/
def search (test : PrimeTest) (K : Nat) (emode : Bool) : Nat → Goal → List Reply → Found
  | 0, _, _ => .failed .keygenIterationCap
  | _ + 1, goal, [] => .waiting goal
  | left + 1, goal, a :: rest =>
    match answerBelow (goal.bound K) a.answer with
    | none => .failed .rngFailure
    | some r =>
      match advance test K emode goal r (Config.freeDraw a.draw) with
      | .more goal' => search test K emode left goal' rest
      | .key p q e => .key p q e

/-- The search of the KEYGEN in flight: `KG_ITER_CAP` attempts, from the operands `K` and `mode` (R141, R154). -/
def keygenSearch (s : State) : Found :=
  search s.config.primeTest s.keyBits s.emode s.config.kgIterCap .drawP s.replies

/-- The request on the RNG port that has no answer yet (R143, R197): only a KEYGEN in flight makes one. -/
def State.request (s : State) : Option Goal :=
  match s.phase with
  | .idle => none
  | .busy .modexp => none
  | .busy .zeroize => none
  | .busy .keygen =>
    match keygenSearch s with
    | .waiting goal => some goal
    | .key _ _ _ => none
    | .failed _ => none

/-- The outputs of a success (R150, R151): `N`, `E_OUT`, `D_OUT` and `LEN`. -/
def State.putKey (s : State) (p q e : Nat) : State :=
  (((s.put .n (keyLen s.keyBits) (p * q)).put .eOut (keyLen s.keyBits) e).put .dOut (keyLen s.keyBits)
    (modInv e (totient p q))).setLen (BitVec.ofNat 16 (keyLen s.keyBits))

/-- The completion step of KEYGEN (R154): a key is output and completes with code 0 (R151); a failed search completes
with its code and writes no output (R152); either way the temporaries are destroyed (R153). While the RNG has not
answered there is no outcome to complete with, and the engine stays busy (R221). -/
def completeKeygen (s : State) : State :=
  match keygenSearch s with
  | .waiting _ => s
  | .key p q e => (s.clearReplies.putKey p q e).complete .ok
  | .failed code => s.clearReplies.complete code

/-- KEYGEN: from idle, its start (R100, R140) with no attempt made (R144), which is an illegal command without the key generator (R81, R184); in
flight, its completion step (R103); while another command is in flight, a command is dropped (R106). -/
def execKeygen (s : State) : Outcome :=
  match s.phase with
  | .idle =>
    if s.config.hasKeygen then .next (s.clearReplies.start .keygen 0x2 (validateKeygen s))
    else .next (s.startIllegal 0x2)
  | .busy .keygen => .next (completeKeygen s)
  | .busy .modexp => .next s.dropWrite
  | .busy .zeroize => .next s.dropWrite

end Sys2Proof.Machine
end

