-- ==== Sys2Proof/Machine/Modexp.lean ====
section
/-! DEFINITION. MODEXP (R120 to R127): its validation, its completion, and its meaning as a command. -/

namespace Sys2Proof.Machine

/-- `validate(MODEXP)` (R120, R121): length, then range, then parity; the first check that fails gives the code. -/
def validateModexp (s : State) : Code :=
  if s.opLen = 0 ∨ s.config.maxlen < s.opLen then .lengthInvalid
  else if s.opN ≤ s.opX then .messageOutOfRange
  else if s.opN % 2 = 0 then .modulusEven
  else .ok

/-- `y = x^k mod n` (R122), over all `8 * L` bits of `k`. -/
def modexpResult (s : State) : Nat := modPow (8 * s.opLen) s.opX s.opK s.opN

/-- The completion step of MODEXP (R103, R120): `put(R, L, y)`, then `complete(0)`. -/
def completeModexp (s : State) : State :=
  (s.put .r s.opLen (modexpResult s)).complete .ok

/-- MODEXP: from idle, its start (R100, R120); in flight, its completion step (R103); while another command is in
flight, a command is dropped (R106). -/
def execModexp (s : State) : Outcome :=
  match s.phase with
  | .idle => .next (s.start .modexp 0x1 (validateModexp s))
  | .busy .modexp => .next (completeModexp s)
  | .busy .keygen => .next s.dropWrite
  | .busy .zeroize => .next s.dropWrite

end Sys2Proof.Machine
end

