-- ==== Sys2Proof/Machine/Zeroize.lean ====
section
/-! DEFINITION. ZEROIZE (R170, R171): its validation, its completion, and its meaning as a command. -/

namespace Sys2Proof.Machine

/-- `validate(ZEROIZE)` never fails (R170). -/
def validateZeroize : Code := .ok

/-- Clears a window if the engine has it (R170). -/
def State.clearPresent (s : State) (W : Window) : State :=
  if W.present s.config.hasKeygen then s.clearWin W else s

/-- The completion step of ZEROIZE (R103, R170): every window cleared, then `complete(0)`. -/
def completeZeroize (s : State) : State :=
  ((((((s.clearPresent .x).clearPresent .k).clearPresent .n).clearPresent .r).clearPresent .eOut).clearPresent
    .dOut).complete .ok

/-- ZEROIZE: from idle, its start (R100, R170); in flight, its completion step (R103); while another command is in
flight, a command is dropped (R106). -/
def execZeroize (s : State) : Outcome :=
  match s.phase with
  | .idle => .next (s.start .zeroize 0x3 validateZeroize)
  | .busy .zeroize => .next (completeZeroize s)
  | .busy .modexp => .next s.dropWrite
  | .busy .keygen => .next s.dropWrite

end Sys2Proof.Machine
end

