-- ==== Sys2Proof/Machine/Dispatch.lean ====
section
/-! DEFINITION. One arm per command: what the engine does with it in its present phase. -/

namespace Sys2Proof.Machine

/-- One engine step of the command `i`: its start from idle (R100), its completion step while it is in flight (R103). -/
def exec (i : Instr) (s : State) : Host.Outcome State Fault Refusal :=
  match i with
  | .modexp => Sys2Proof.Machine.execModexp s
  | .keygen => Sys2Proof.Machine.execKeygen s
  | .zeroize => Sys2Proof.Machine.execZeroize s
  | .illegal rsvd opcode => Sys2Proof.Machine.execIllegal rsvd opcode s

end Sys2Proof.Machine
end

