-- ==== Sys2Proof/Machine/Bus.lean ====
section
/-! DEFINITION. The bus: the address map (R51, R52), `MemRead` and `MemWrite` (R58), and the placement of the block at
`BASE` (R50, R197). -/

namespace Sys2Proof.Machine

/-- What an offset selects (R51). -/
inductive Target where
  | id
  | cfg
  | ctrl
  | cmd
  | status
  | len
  | kbits
  /-- Byte offset `o` in a window's range. -/
  | window (W : Window) (o : Nat)
  | unmapped
  deriving DecidableEq, Repr

/-- The offset with bits 1:0 cleared (R52, R58). -/
def alignedOffset (off : Offset) : Nat := off.toNat / 4 * 4

/-- The registers of the first 4 KiB (R51). -/
def registerAt (a : Nat) : Target :=
  if a = 0x000 then .id
  else if a = 0x004 then .cfg
  else if a = 0x008 then .ctrl
  else if a = 0x00C then .cmd
  else if a = 0x010 then .status
  else if a = 0x014 then .len
  else if a = 0x018 then .kbits
  else .unmapped

/-- The address map (R51). -/
def targetAt (a : Nat) : Target :=
  if a < 0x1000 then registerAt a
  else if a < 0x2000 then .window .x (a - 0x1000)
  else if a < 0x3000 then .window .k (a - 0x2000)
  else if a < 0x4000 then .window .n (a - 0x3000)
  else if a < 0x5000 then .window .r (a - 0x4000)
  else if a < 0x6000 then .window .eOut (a - 0x5000)
  else if a < 0x7000 then .window .dOut (a - 0x6000)
  else .unmapped

/-- The target of a bus access (R51, R52). -/
def target (off : Offset) : Target := targetAt (alignedOffset off)

/-- A read of a window (R58): 0 past `MAXLEN`, without the window, or while busy. -/
def State.readWindow (s : State) (W : Window) (o : Nat) : Word :=
  if s.config.maxlen ≤ o ∨ W.present s.config.hasKeygen = false then 0
  else if s.isBusy then 0
  else s.winWord W o

/-- `MemRead(off, 4)` (R58). It changes no state (R61). -/
def busRead (off : Offset) (s : State) : Word :=
  match target off with
  | .id => idWord
  | .cfg => cfgWord s.config
  | .ctrl => s.ctrlWord
  | .cmd => 0
  | .status => s.statusWord
  | .len => s.lenWord
  | .kbits => s.kbitsWord
  | .window W o => s.readWindow W o
  | .unmapped => 0

/-- A write of a window while idle (R58): only the host-writable windows, only below `MAXLEN`. -/
def State.writeWindow (s : State) (W : Window) (o : Nat) (w : Word) : State :=
  if W.hostWritable ∧ o < s.config.maxlen then s.setWinWord W o w else s

/-- A write while idle (R58), `STATUS` apart: a word written to `CMD` starts the command it decodes to (R100). -/
def idleWrite (t : Target) (w : Word) (s : State) : Outcome :=
  match t with
  | .id => .next s
  | .cfg => .next s
  | .ctrl => .next (s.writeCtrl w)
  | .cmd => exec (decode s.config.hasKeygen w) s
  | .status => .next (s.writeStatus w)
  | .len => .next (s.writeLen w)
  | .kbits => .next (s.writeKbits w)
  | .window W o => .next (s.writeWindow W o w)
  | .unmapped => .next s

/-- `MemWrite(off, 4, w)` (R58): a write of `STATUS` is always accepted; while busy every other write is dropped. -/
def busWrite (off : Offset) (w : Word) (s : State) : Outcome :=
  if target off = .status then .next (s.writeStatus w)
  else if s.isBusy then .next s.dropWrite
  else idleWrite (target off) w s

/-- The offset a platform address selects in this engine's block at `BASE` (R50, R197); none outside the block. -/
def offsetOf (c : Config) (addr : Nat) : Option Offset :=
  if c.base ≤ addr ∧ addr < c.base + 0x10000 then some (BitVec.ofNat 16 (addr - c.base)) else none

/-- The platform address of an offset (R50). -/
def busAddress (c : Config) (off : Nat) : Nat := c.base + off

end Sys2Proof.Machine
end

