-- ==== Sys2Proof/Machine/Agents.lean ====
section
/-! DEFINITION. The agents' steps (R13): the host runs one statement of its program (R86), the engine performs the
completion step of the command in flight (R103), the RNG answers its request (R143), the reset input resets the engine
(R210); and whose turn it is. Also the host's pseudo-instructions (R87). -/

namespace Sys2Proof.Machine

/-- The word a host read of a platform address returns, and the state after it: the engine's word, with no side effect
(R61), or outside the block another device's, a free value. -/
def hostRead (addr : Nat) (s : State) : Word × State :=
  match offsetOf s.config addr with
  | some off => (busRead off s, s)
  | none => (Config.freeWord s.fresh, { s with fresh := s.fresh + 1 })

/-- A host write of a platform address: outside the block it is not the engine's. -/
def hostWrite (addr : Nat) (w : Word) (s : State) : Outcome :=
  match offsetOf s.config addr with
  | some off => busWrite off w s
  | none => .next s

/-- The host's step (R13.1, R86): its next statement. A `POLL` that fails and a `WAITIRQ` that must wait stay in the
program; a host with no statement left does nothing. -/
def hostStep (s : State) : Outcome :=
  match s.program with
  | [] => .next s
  | .wr addr w :: rest => hostWrite addr w { s with program := rest }
  | .rd addr :: rest =>
    .next { (hostRead addr s).2 with program := rest, reads := s.reads ++ [(hostRead addr s).1] }
  | .poll addr mask value :: rest =>
    if (hostRead addr s).1 &&& mask = value then .next { (hostRead addr s).2 with program := rest }
    else .next (hostRead addr s).2
  | .waitIrq :: rest => if s.irq then .next { s with program := rest } else .next s

/-- The command in flight as an instruction. -/
def Op.instr : Op → Instr
  | .modexp => .modexp
  | .keygen => .keygen
  | .zeroize => .zeroize

/-- The engine's step (R103): the completion step of the command in flight; an idle engine does nothing (R200). -/
def engineStep (s : State) : Outcome :=
  match s.phase with
  | .idle => .next s
  | .busy op => exec op.instr s

/-- The RNG's answer to the next request: the next of its list, or a free value when the list is used up (R143). -/
def nextAnswer (s : State) : RngAnswer :=
  match s.answers with
  | [] => Config.freeAnswer s.fresh
  | a :: _ => a

/-- The RNG's step (R13.3, R143): it answers the request that waits for it; with no request, after a reset too (R210), it
gives the engine nothing. -/
def rngStep (s : State) : Outcome :=
  match s.request with
  | none => .next s
  | some _ =>
    .next { s with
      replies := s.replies ++ [{ answer := nextAnswer s, draw := s.fresh }]
      answers := s.answers.tail, fresh := s.fresh + 1 }

/-- The agent the command in flight waits for: the RNG while it has a request to answer, else the engine. -/
def State.awaited (s : State) : Agent :=
  match s.request with
  | none => .engine
  | some _ => .rng

/-- Whose turn it is, and the state with the turn taken: the next of the list; when that is used up, a free value, but the
awaited agent's once the patience is used up, which is then a new free value (R105: weak fairness). -/
def takeTurn (s : State) : Agent × State :=
  match s.turns with
  | a :: rest => (a, { s with turns := rest })
  | [] =>
    match s.patience with
    | n + 1 => (Config.freeAgent s.fresh, { s with patience := n, fresh := s.fresh + 1 })
    | 0 => (s.awaited, { s with patience := Config.freeDelay s.fresh, fresh := s.fresh + 1 })

/-- One agent's step. -/
def agentStep (a : Agent) (s : State) : Outcome :=
  match a with
  | .host => hostStep s
  | .engine => engineStep s
  | .rng => rngStep s
  | .reset => .next s.resetEngine

/-- `START <mnemonic>` (R87): the command word written to `CMD`. -/
def startStmt (c : Config) (i : Instr) : HostStmt := .wr (busAddress c 0x00C) (encode i)

/-- `WAIT` (R87): polls `STATUS` until `BUSY = 0`. -/
def waitStmt (c : Config) : HostStmt := .poll (busAddress c 0x010) 0x1 0x0

/-- `ACK` (R87): clears `DONE`. -/
def ackStmt (c : Config) : HostStmt := .wr (busAddress c 0x010) 0x2

/-- The read of `CHECKOK` (R87); what the program requires of the word is the host's. -/
def checkStmt (c : Config) : HostStmt := .rd (busAddress c 0x010)

/-- Byte `i` of `BE_L(v)` extended with zero bytes past `L` (R87). -/
def loadByte (L v i : Nat) : Byte := if i < L then beByte L v i else 0

/-- `LOADOP <W>, <L>, <v>` (R87): the words of `BE_L(v)`, written in order. -/
def loadOp (c : Config) (W : Window) (L v : Nat) : List HostStmt :=
  (List.range ((L + 3) / 4)).map fun j =>
    .wr (busAddress c (W.base + 4 * j))
      (loadByte L v (4 * j) ++ loadByte L v (4 * j + 1) ++ loadByte L v (4 * j + 2) ++ loadByte L v (4 * j + 3))

/-- `READOP <W>, <L>` (R87): the reads of the first `ceil(L/4)` words. -/
def readOp (c : Config) (W : Window) (L : Nat) : List HostStmt :=
  (List.range ((L + 3) / 4)).map fun j => .rd (busAddress c (W.base + 4 * j))

end Sys2Proof.Machine
end

