-- ==== Sys2Proof/Machine/Step.lean ====
section
/-! DEFINITION. One step of the machine: one agent's turn (R13, R62). And where the machine takes its next command from:
the head of the host's program. -/

namespace Sys2Proof.Machine

/-- One step: the agent whose turn it is takes it (R62). -/
def step (s : State) : Host.Outcome State Fault Refusal := agentStep (takeTurn s).1 (takeTurn s).2

/-- `s` with the command word `w` as the next thing that happens: it is the host's turn, and the host's next statement
writes `w` to `CMD`. The engine is idle, since a busy engine drops the write (R58). A command is always one 32-bit word
(R80), so `nbits` only says how many bits the table gives; the bits above are 0. -/
def State.withFetchWord (s : State) (_nbits w : Nat) : State :=
  { s with
    phase := .idle
    turns := .host :: s.turns
    program := .wr (busAddress s.config 0x00C) (BitVec.ofNat 32 w) :: s.program }

end Sys2Proof.Machine
end

