-- ==== Sys2Proof/Safety.lean ====
section
/-! DEFINITION. What claims are stated in: which offsets hold a byte, the machine's invariant, and when a key is good.
The invariant rules out states that no run reaches; every step keeps it. -/

namespace Sys2Proof.Machine

/-- The six windows (R28). -/
def Window.all : List Window := [.x, .k, .n, .r, .eOut, .dOut]

/-- Offset `a` is a byte of a window the engine has (R28, R51, R53). -/
def backed (c : Config) (a : Nat) : Bool :=
  Window.all.any fun W => W.present c.hasKeygen && decide (W.base ≤ a) && decide (a < W.base + c.maxlen)

/-- Memory is in canonical form and lists only bytes that exist. -/
def State.memOk (s : State) : Bool := s.mem.wf && s.mem.all fun cell => backed s.config cell.1

/-- The completion codes that are produced (R84); the others are reserved and never produced (R188). -/
def codeProduced (b : BitVec 4) : Bool :=
  [Code.ok, .messageOutOfRange, .modulusEven, .lengthInvalid, .illegalCommand, .keygenIterationCap, .rngFailure].any
    fun c => c.bits == b

/-- The opcode of a command (R81). -/
def Op.opcode : Op → BitVec 4
  | .modexp => 0x1
  | .keygen => 0x2
  | .zeroize => 0x3

/-- The validation of a command (R101). -/
def validate : Op → State → Code
  | .modexp, s => validateModexp s
  | .keygen, s => validateKeygen s
  | .zeroize, _ => validateZeroize

/-- The completion step of a command (R103). -/
def completion : Op → State → State
  | .modexp, s => completeModexp s
  | .keygen, s => completeKeygen s
  | .zeroize, s => completeZeroize s

/-- The state a start of the command begins from: KEYGEN's has made no attempt (R144). -/
def startFrom : Op → State → State
  | .modexp, s => s
  | .keygen, s => s.clearReplies
  | .zeroize, s => s

/-- The command exists on this engine (R81). -/
def Op.present (c : Config) : Op → Bool
  | .modexp => true
  | .keygen => c.hasKeygen
  | .zeroize => true

/-- While busy (R102): `DONE = 0`, `ERRCODE = 0`, `LASTOP` is the command's opcode, the command exists, and its
operands still pass its validation, because no write has changed them since the start. -/
def State.busyOk (s : State) : Bool :=
  match s.phase with
  | .idle => true
  | .busy op =>
    !s.done && s.errcode == 0 && s.lastop == op.opcode && op.present s.config && validate op s == .ok

/-- Without the key generator, `EMODE` and `KBITS` hold 0 (R23, R27, R53). -/
def State.keygenFieldsOk (s : State) : Bool := s.config.hasKeygen || (!s.emode && s.kbits == 0)

/-- The RNG has given answers only to the KEYGEN in flight (R32, R153), at most `KG_ITER_CAP` of them (R156). -/
def State.repliesOk (s : State) : Bool :=
  match s.phase with
  | .busy .keygen => decide (s.replies.length ≤ s.config.kgIterCap)
  | .busy .modexp => s.replies == []
  | .busy .zeroize => s.replies == []
  | .idle => s.replies == []

/-- The invariant of the machine. -/
def State.Inv (s : State) : Bool :=
  s.memOk && codeProduced s.errcode && s.busyOk && s.keygenFieldsOk && s.repliesOk

/-- `t` differs from `s` at most in the other agents' fields: the engine's state and the parameters are the same. -/
def SameEngine (s t : State) : Prop :=
  t = { s with program := t.program, reads := t.reads, turns := t.turns, patience := t.patience, answers := t.answers,
               fresh := t.fresh }

/-- `p` is what the prime draw of R145 can return: odd, of exactly `K/2` bits, and accepted by the test. -/
def acceptedPrime (test : PrimeTest) (K p : Nat) : Prop :=
  p % 2 = 1 ∧ 2 ^ (K / 2 - 1) ≤ p ∧ p < 2 ^ (K / 2) ∧ ∃ draw, primeVerdict test p draw = true

/-- `(p, q)` is a pair the pair draw of R146 accepts in either mode. -/
def acceptedPair (test : PrimeTest) (K p q : Nat) : Prop :=
  acceptedPrime test K p ∧ acceptedPrime test K q ∧ p ≠ q ∧ (p * q).testBit (K - 1) = true

/-- `(p, q, e)` is a key of the search (R146, R148, R149). -/
def acceptedKey (test : PrimeTest) (K : Nat) (emode : Bool) (p q e : Nat) : Prop :=
  acceptedPair test K p q ∧ Nat.gcd e (totient p q) = 1
    ∧ (if emode then e < totient p q else e = 65537)

/-- The parameter accepts only true primes, the premise of R131. -/
def PrimeTestSound (test : PrimeTest) : Prop := ∀ c draw, primeVerdict test c draw = true → Nat.Prime c

end Sys2Proof.Machine
end

