-- ==== Sys2Proof/Certificates/Slice0/Obligations.lean ====
section
/-! DEFINITION. The statements for the provers, from the spec's numbered rules. -/

open Sys2Proof Sys2Proof.Machine

/-! ### Encoding -/

/-- R81: the opcode map's words, and some words of the illegal class. -/
def Obligations.OpcodeMapWords : Prop :=
  (∀ hk, decode hk 0x00000001 = .modexp) ∧ decode true 0x00000002 = .keygen ∧
  decode false 0x00000002 = .illegal 0 0x2 ∧ (∀ hk, decode hk 0x00000003 = .zeroize) ∧
  (∀ hk, decode hk 0x00000000 = .illegal 0 0x0) ∧ (∀ hk, decode hk 0x0000000F = .illegal 0 0xF) ∧
  (∀ hk, decode hk 0x00000011 = .illegal 0x0000001 0x1) ∧ (∀ hk, decode hk 0x80000001 = .illegal 0x8000000 0x1)

/-- R82: the decode function on all 2^32 words, by the word's number; and the defined effect of a word it calls illegal:
it starts and at once completes with code 4. -/
def Obligations.DecodeIsTotalByFields : Prop :=
  (∀ (hk : Bool) (w : Word),
    (16 ≤ w.toNat → decode hk w = .illegal (BitVec.ofNat 28 (w.toNat / 16)) (BitVec.ofNat 4 (w.toNat % 16))) ∧
    (w.toNat = 1 → decode hk w = .modexp) ∧
    (w.toNat = 2 → decode hk w = if hk then .keygen else .illegal 0 0x2) ∧
    (w.toNat = 3 → decode hk w = .zeroize) ∧
    (w.toNat = 0 ∨ (4 ≤ w.toNat ∧ w.toNat < 16) → decode hk w = .illegal 0 (BitVec.ofNat 4 w.toNat))) ∧
  (∀ (rsvd : BitVec 28) (opcode : BitVec 4) (s : State), s.phase = .idle →
    exec (.illegal rsvd opcode) s = .next { s with done := true, errcode := 4, lastop := opcode })

/-- R80 to R82: no bit of an encoding is dropped. -/
def Obligations.DecodeOfEncode : Prop :=
  ∀ (hk : Bool) (i : Instr), i.wellFormed hk = true → decode hk (encode i) = i

/-- R80 to R82: every word is the encoding of the well-formed instruction it decodes to. -/
def Obligations.EncodeOfDecode : Prop :=
  ∀ (hk : Bool) (w : Word), (decode hk w).wellFormed hk = true ∧ encode (decode hk w) = w

/-! ### MODEXP -/

/-- R121: the checks of MODEXP's start, in order, and what each outcome leaves; the exponent is not checked. -/
def Obligations.ModexpStartChecks : Prop :=
  ∀ s : State, s.phase = .idle →
    (s.len.toNat = 0 ∨ s.config.maxlen < s.len.toNat →
      exec .modexp s = .next { s with done := true, errcode := 3, lastop := 1 }) ∧
    (1 ≤ s.len.toNat ∧ s.len.toNat ≤ s.config.maxlen →
      (s.val .n s.len.toNat ≤ s.val .x s.len.toNat →
        exec .modexp s = .next { s with done := true, errcode := 1, lastop := 1 }) ∧
      (s.val .x s.len.toNat < s.val .n s.len.toNat ∧ s.val .n s.len.toNat % 2 = 0 →
        exec .modexp s = .next { s with done := true, errcode := 2, lastop := 1 }) ∧
      (s.val .x s.len.toNat < s.val .n s.len.toNat ∧ s.val .n s.len.toNat % 2 = 1 →
        exec .modexp s = .next { s with done := false, errcode := 0, lastop := 1, phase := .busy .modexp }))

/-- R122: the completion of MODEXP: `R` holds `x^k mod n` in `L` bytes, then zero bytes. -/
def Obligations.ModexpWritesPowerModN : Prop :=
  ∀ s : State, s.phase = .busy .modexp → s.mem.wf = true → 1 ≤ s.len.toNat → s.len.toNat ≤ s.config.maxlen →
    s.val .x s.len.toNat < s.val .n s.len.toNat →
    ∃ t, exec .modexp s = .next t ∧
      t.val .r s.len.toNat = s.val .x s.len.toNat ^ s.val .k s.len.toNat % s.val .n s.len.toNat ∧
      t.val .r s.len.toNat < s.val .n s.len.toNat ∧
      (∀ i, s.len.toNat ≤ i → i < s.config.maxlen → t.win .r i = 0) ∧
      t = { s with mem := t.mem, done := true, errcode := 0, phase := .idle }

/-- R120, R28, the frame of MODEXP's completion: only `STATUS`, the phase and the bytes of window `R` change. -/
def Obligations.ModexpFrame : Prop :=
  ∀ s t : State, s.phase = .busy .modexp → s.mem.wf = true → exec .modexp s = .next t →
    t = { s with mem := t.mem, done := true, errcode := 0, phase := .idle } ∧
    ∀ a, a < Window.r.base ∨ Window.r.base + s.config.maxlen ≤ a → t.mem.read a = s.mem.read a

/-- R123, R125 (and R124's value): the corner cases of MODEXP's result. -/
def Obligations.ModexpCornerCases : Prop :=
  ∀ s : State, s.phase = .busy .modexp → s.mem.wf = true → 1 ≤ s.len.toNat → s.len.toNat ≤ s.config.maxlen →
    s.val .x s.len.toNat < s.val .n s.len.toNat →
    ∃ t, exec .modexp s = .next t ∧
      (s.val .k s.len.toNat = 0 → t.val .r s.len.toNat = 1 % s.val .n s.len.toNat) ∧
      (s.val .k s.len.toNat = 0 → 3 ≤ s.val .n s.len.toNat → t.val .r s.len.toNat = 1) ∧
      (s.val .n s.len.toNat = 1 → t.val .r s.len.toNat = 0) ∧
      (s.val .x s.len.toNat = 0 → 1 ≤ s.val .k s.len.toNat → t.val .r s.len.toNat = 0)

/-- R29, R126: the bytes of the windows past `L`, and every byte of the output windows, have no effect on MODEXP, at its
start or its completion. -/
def Obligations.ModexpIgnoresOperandTails : Prop :=
  ∀ (s : State) (m : Memory), s.mem.wf = true → m.wf = true →
    (∀ W, W.hostWritable = true → ∀ i, i < s.len.toNat → (s.withMem m).win W i = s.win W i) →
    (s.phase = .idle → ∀ t, exec .modexp s = .next t → exec .modexp (s.withMem m) = .next (t.withMem m)) ∧
    (s.phase = .busy .modexp → ∀ t, exec .modexp s = .next t →
      ∃ t', exec .modexp (s.withMem m) = .next t' ∧ t' = t.withMem t'.mem ∧
        ∀ i, i < s.config.maxlen → t'.win .r i = t.win .r i)

/-! ### KEYGEN -/

/-- R142: the check of KEYGEN's start, which leaves no attempt made (R144); R81: without the key generator the command is
illegal. -/
def Obligations.KeygenStartChecks : Prop :=
  ∀ s : State, s.phase = .idle →
    (s.config.hasKeygen = false →
      exec .keygen s = .next { s with done := true, errcode := 4, lastop := 2 }) ∧
    (s.config.hasKeygen = true →
      (s.kbits.toNat % 2 = 1 ∨ s.kbits.toNat < 24 ∨ 8 * s.config.maxlen < s.kbits.toNat →
        exec .keygen s = .next { s with done := true, errcode := 3, lastop := 2, replies := [] }) ∧
      (s.kbits.toNat % 2 = 0 ∧ 24 ≤ s.kbits.toNat ∧ s.kbits.toNat ≤ 8 * s.config.maxlen →
        exec .keygen s = .next { s with
          done := false, errcode := 0, lastop := 2, phase := .busy .keygen, replies := [] }))

/-- R144, R156, R221: KEYGEN completes, with code 0, 8 or 9, once the RNG has answered at most `KG_ITER_CAP` times in all;
it completes exactly when no request waits for an answer, waits with fewer than `KG_ITER_CAP` answers given, and with
code 8 only when it has been given that many. That a waiting step leaves the state unchanged is the model's reading of
R221 (log entry 15), and the run of the last clause is over the model's list of turns (log entry 2). -/
def Obligations.KeygenCompletesWithinCap : Prop :=
  ∀ s : State, s.phase = .busy .keygen →
    (s.request = none →
      ∃ t, exec .keygen s = .next t ∧ t.phase = .idle ∧ t.done = true ∧ t.replies = [] ∧
        (t.errcode = 0 ∨ t.errcode = 8 ∨ t.errcode = 9) ∧
        (t.errcode = 8 → s.config.kgIterCap ≤ s.replies.length)) ∧
    (s.request ≠ none → exec .keygen s = .next s ∧ s.replies.length < s.config.kgIterCap) ∧
    ∃ n ≤ s.config.kgIterCap - s.replies.length, ∀ rest : List Agent, ∃ t,
      core.run (n + 1) { s with turns := List.replicate n .rng ++ .engine :: rest } = .next t ∧
        t.phase = .idle ∧ t.done = true ∧ (t.errcode = 0 ∨ t.errcode = 8 ∨ t.errcode = 9)

/-- R152: a KEYGEN that ends with an error writes none of its outputs. -/
def Obligations.KeygenNoOutputOnFailure : Prop :=
  ∀ s t : State, exec .keygen s = .next t → t.errcode ≠ 0 → t.mem = s.mem ∧ t.len = s.len

/-- R155: the invariants of a successful KEYGEN, whatever `PrimeTest` answers, and the width of its outputs (R151). -/
def Obligations.KeygenKeyIsValid : Prop :=
  ∀ s t : State, s.phase = .busy .keygen → s.mem.wf = true → s.kbits.toNat % 2 = 0 → 24 ≤ s.kbits.toNat →
    s.kbits.toNat ≤ 8 * s.config.maxlen → exec .keygen s = .next t → t.phase = .idle → t.errcode = 0 →
    t.len.toNat = (s.kbits.toNat + 7) / 8 ∧
    ∃ p q n e d, n = t.val .n t.len.toNat ∧ e = t.val .eOut t.len.toNat ∧ d = t.val .dOut t.len.toNat ∧
      2 ^ (s.kbits.toNat - 1) ≤ n ∧ n < 2 ^ s.kbits.toNat ∧
      n = p * q ∧ p ≠ q ∧
      acceptedPrime s.config.primeTest s.kbits.toNat p ∧ acceptedPrime s.config.primeTest s.kbits.toNat q ∧
      e * d % Nat.lcm (p - 1) (q - 1) = 1 ∧
      1 ≤ d ∧ d < Nat.lcm (p - 1) (q - 1) ∧
      (s.emode = false → e = 65537) ∧
      (s.emode = true → 1 ≤ e ∧ e < Nat.lcm (p - 1) (q - 1))

/-- R140, R151 to R153, the frame of KEYGEN's completion: while the RNG has not answered it changes nothing (R221,
log entry 15); else
it changes `STATUS`, the phase, `LEN`, the bytes of `N`, `E_OUT` and `D_OUT`, and keeps no answer; on success the outputs'
tails are zero. -/
def Obligations.KeygenFrame : Prop :=
  ∀ s t : State, s.phase = .busy .keygen → s.mem.wf = true → exec .keygen s = .next t →
    (t = s ∨ t = { s with mem := t.mem, len := t.len, done := true, errcode := t.errcode, phase := .idle,
                          replies := [] }) ∧
    (∀ a, (∀ W ∈ [Window.n, .eOut, .dOut], a < W.base ∨ W.base + s.config.maxlen ≤ a) →
      t.mem.read a = s.mem.read a) ∧
    (t.phase = .idle → t.errcode = 0 → ∀ W ∈ [Window.n, .eOut, .dOut], ∀ i,
      (s.kbits.toNat + 7) / 8 ≤ i → i < s.config.maxlen → t.win W i = 0)

/-- R145, R146, R148, R150, R151, R154: KEYGEN in fixed mode on two accepted candidates that make an accepted pair. -/
def Obligations.KeygenFixedExponentResult : Prop :=
  ∀ (s : State) (r₁ r₂ ρ₁ ρ₂ : Nat) (rest : List Reply) (b p q : Nat),
    s.phase = .busy .keygen → s.mem.wf = true → s.kbits.toNat = 2 * b → 12 ≤ b →
    s.kbits.toNat ≤ 8 * s.config.maxlen → s.emode = false →
    s.replies = ⟨.value r₁, ρ₁⟩ :: ⟨.value r₂, ρ₂⟩ :: rest → 2 ≤ s.config.kgIterCap → r₁ < 2 ^ b → r₂ < 2 ^ b →
    p = r₁ ||| 2 ^ (b - 1) ||| 1 → q = r₂ ||| 2 ^ (b - 1) ||| 1 →
    primeVerdict s.config.primeTest p (Config.freeDraw ρ₁) = true →
    primeVerdict s.config.primeTest q (Config.freeDraw ρ₂) = true →
    p ≠ q → 2 ^ (2 * b - 1) ≤ p * q → Nat.gcd 65537 (Nat.lcm (p - 1) (q - 1)) = 1 →
    ∃ t, exec .keygen s = .next t ∧ t.errcode = 0 ∧ t.done = true ∧ t.phase = .idle ∧ t.replies = [] ∧
      t.len.toNat = (2 * b + 7) / 8 ∧ t.val .n t.len.toNat = p * q ∧ t.val .eOut t.len.toNat = 65537 ∧
      t.val .dOut t.len.toNat < Nat.lcm (p - 1) (q - 1) ∧
      65537 * t.val .dOut t.len.toNat % Nat.lcm (p - 1) (q - 1) = 1

/-- R145, R146, R149 to R151, R154: KEYGEN in random mode on two accepted candidates and a coprime exponent. -/
def Obligations.KeygenRandomExponentResult : Prop :=
  ∀ (s : State) (r₁ r₂ e ρ₁ ρ₂ ρ₃ : Nat) (rest : List Reply) (b p q : Nat),
    s.phase = .busy .keygen → s.mem.wf = true → s.kbits.toNat = 2 * b → 12 ≤ b →
    s.kbits.toNat ≤ 8 * s.config.maxlen → s.emode = true →
    s.replies = ⟨.value r₁, ρ₁⟩ :: ⟨.value r₂, ρ₂⟩ :: ⟨.value e, ρ₃⟩ :: rest → 3 ≤ s.config.kgIterCap →
    r₁ < 2 ^ b → r₂ < 2 ^ b →
    p = r₁ ||| 2 ^ (b - 1) ||| 1 → q = r₂ ||| 2 ^ (b - 1) ||| 1 →
    primeVerdict s.config.primeTest p (Config.freeDraw ρ₁) = true →
    primeVerdict s.config.primeTest q (Config.freeDraw ρ₂) = true →
    p ≠ q → 2 ^ (2 * b - 1) ≤ p * q →
    e < Nat.lcm (p - 1) (q - 1) → Nat.gcd e (Nat.lcm (p - 1) (q - 1)) = 1 →
    ∃ t, exec .keygen s = .next t ∧ t.errcode = 0 ∧ t.done = true ∧ t.phase = .idle ∧ t.replies = [] ∧
      t.len.toNat = (2 * b + 7) / 8 ∧ t.val .n t.len.toNat = p * q ∧ t.val .eOut t.len.toNat = e ∧
      t.val .dOut t.len.toNat < Nat.lcm (p - 1) (q - 1) ∧
      e * t.val .dOut t.len.toNat % Nat.lcm (p - 1) (q - 1) = 1

/-- R145, R146, R149: the rejections. Each costs the request just answered and no other: a rejected candidate is drawn
again, a rejected pair is drawn anew from `p`, a rejected `e` is drawn again. `2^(K/2)` bounds the answers of
`RngBits(K/2)`, `λ` those of `RngBelow(λ)`. -/
def Obligations.KeygenRejections : Prop :=
  ∀ (test : PrimeTest) (K left ρ r p q : Nat) (emode : Bool) (rest : List Reply),
    (r < 2 ^ (K / 2) → primeVerdict test (candidate (K / 2) r) (Config.freeDraw ρ) = false →
      search test K emode (left + 1) .drawP (⟨.value r, ρ⟩ :: rest) = search test K emode left .drawP rest ∧
      search test K emode (left + 1) (.drawQ p) (⟨.value r, ρ⟩ :: rest)
        = search test K emode left (.drawQ p) rest) ∧
    (r < 2 ^ (K / 2) → primeVerdict test (candidate (K / 2) r) (Config.freeDraw ρ) = true →
      (p = candidate (K / 2) r ∨ (p * candidate (K / 2) r).testBit (K - 1) = false ∨
        (emode = false ∧ Nat.gcd 65537 (totient p (candidate (K / 2) r)) ≠ 1) →
      search test K emode (left + 1) (.drawQ p) (⟨.value r, ρ⟩ :: rest) = search test K emode left .drawP rest)) ∧
    (r < totient p q → Nat.gcd r (totient p q) ≠ 1 →
      search test K emode (left + 1) (.drawE p q) (⟨.value r, ρ⟩ :: rest)
        = search test K emode left (.drawE p q) rest)

/-- R144, R186, R189: a `FAIL` answer to any request ends the search with code 9; with no attempt left the search ends
with code 8 and makes no request, whatever the RNG would answer; with one left it makes its request and waits (log entry 15). -/
def Obligations.KeygenFailAndCap : Prop :=
  ∀ (test : PrimeTest) (K left ρ : Nat) (emode : Bool) (goal : Goal) (rest : List Reply),
    search test K emode (left + 1) goal (⟨.fail, ρ⟩ :: rest) = .failed .rngFailure ∧
    search test K emode (left + 1) goal [] = .waiting goal ∧
    ∀ replies, search test K emode 0 goal replies = .failed .keygenIterationCap

/-- R185: a KEYGEN whose every candidate is rejected makes `KG_ITER_CAP` requests: it waits for the answer to each
(log entry 15), and with all of them given it completes with code 8. -/
def Obligations.KeygenStopsAtCap : Prop :=
  ∀ s : State, s.phase = .busy .keygen → (∀ c draw, primeVerdict s.config.primeTest c draw = false) →
    (∀ a ∈ s.replies, a.answer ≠ .fail) →
    (s.replies.length < s.config.kgIterCap → s.request = some .drawP ∧ exec .keygen s = .next s) ∧
    (s.config.kgIterCap ≤ s.replies.length →
      exec .keygen s = .next { s with done := true, errcode := 8, phase := .idle, replies := [] })

/-- R141: `LEN` and the windows are no inputs of KEYGEN: on other windows and another `LEN` it waits for the same
request, completes with the same code, and on success writes the same `LEN` and the same bytes. -/
def Obligations.KeygenReadsNoWindow : Prop :=
  ∀ (s t : State) (m : Memory) (L : BitVec 16), s.phase = .busy .keygen → s.mem.wf = true → m.wf = true →
    exec .keygen s = .next t →
    ((s.withMem m).setLen L).request = s.request ∧
    ∃ t', exec .keygen ((s.withMem m).setLen L) = .next t' ∧ t' = (t.withMem t'.mem).setLen t'.len ∧
      (t.phase = .idle → t.errcode = 0 → t'.len = t.len ∧
        ∀ W ∈ [Window.n, .eOut, .dOut], ∀ i, i < s.config.maxlen → t'.win W i = t.win W i)

/-- R13, R143, R154: the RNG's step answers the request of the KEYGEN in flight, after the answers given before, with the
next answer it has to give (a list of them is the model's choice, log entry 3), and with a fresh draw for the primality
test (R157); it changes nothing else, and nothing at all when no request waits: none does but a KEYGEN's. -/
def Obligations.RngAnswersRequest : Prop :=
  ∀ (s : State) (turns : List Agent), s.turns = .rng :: turns →
    (s.request = none → step s = .next { s with turns := turns }) ∧
    (s.phase ≠ .busy .keygen → s.request = none) ∧
    (s.request ≠ none → ∃ a : RngAnswer, (∀ b later, s.answers = b :: later → a = b) ∧
      step s = .next { s with turns := turns, replies := s.replies ++ [⟨a, s.fresh⟩],
                              answers := s.answers.tail, fresh := s.fresh + 1 })

/-- R131: with a `PrimeTest` that accepts only true primes, MODEXP with a generated key's `d` and then with its `e`
returns `x`, for every `x < n`. -/
def Obligations.SignThenVerifyReturnsMessage : Prop :=
  ∀ s t a a' b b' : State,
    s.phase = .busy .keygen → s.mem.wf = true → s.kbits.toNat % 2 = 0 → 24 ≤ s.kbits.toNat →
    s.kbits.toNat ≤ 8 * s.config.maxlen → PrimeTestSound s.config.primeTest →
    exec .keygen s = .next t → t.phase = .idle → t.errcode = 0 →
    a.phase = .busy .modexp → a.mem.wf = true → a.config = s.config → a.len = t.len →
    a.val .n t.len.toNat = t.val .n t.len.toNat → a.val .k t.len.toNat = t.val .dOut t.len.toNat →
    a.val .x t.len.toNat < t.val .n t.len.toNat → exec .modexp a = .next a' →
    b.phase = .busy .modexp → b.mem.wf = true → b.config = s.config → b.len = t.len →
    b.val .n t.len.toNat = t.val .n t.len.toNat → b.val .k t.len.toNat = t.val .eOut t.len.toNat →
    b.val .x t.len.toNat = a'.val .r t.len.toNat → exec .modexp b = .next b' →
    b'.val .r t.len.toNat = a.val .x t.len.toNat

/-! ### ZEROIZE and the illegal class -/

/-- R170: ZEROIZE: its word, its start, and its completion, which clears every window the engine has. -/
def Obligations.ZeroizeClearsEveryWindow : Prop :=
  (∀ hk, decode hk 0x00000003 = .zeroize) ∧
  ∀ s : State,
    (s.phase = .idle →
      exec .zeroize s = .next { s with done := false, errcode := 0, lastop := 3, phase := .busy .zeroize }) ∧
    (s.phase = .busy .zeroize → s.mem.wf = true →
      ∃ t, exec .zeroize s = .next t ∧
        (∀ W, W.present s.config.hasKeygen = true → ∀ i, i < s.config.maxlen → t.win W i = 0) ∧
        t = { s with mem := t.mem, done := true, errcode := 0, phase := .idle })

/-- R170, R171, the frame of ZEROIZE's completion: bytes outside the windows the engine has are unchanged; and where
memory lists only bytes that exist, nothing is left of it. -/
def Obligations.ZeroizeFrame : Prop :=
  ∀ s t : State, s.phase = .busy .zeroize → s.mem.wf = true → exec .zeroize s = .next t →
    (∀ a, backed s.config a = false → t.mem.read a = s.mem.read a) ∧ (s.memOk = true → t.mem = [])

/-- R184: a word that decodes to `ILLEGAL`, written to `CMD` while idle, completes in the write with code 4, and
`LASTOP` records its low four bits; and the illegal class itself does so from idle. -/
def Obligations.IllegalCommandCompletes : Prop :=
  ∀ s : State, s.phase = .idle →
    (∀ (off : Offset) (w : Word), off.toNat / 4 * 4 = 0x00C →
      (16 ≤ w.toNat ∨ w.toNat = 0 ∨ 4 ≤ w.toNat ∨ (w.toNat = 2 ∧ s.config.hasKeygen = false)) →
      busWrite off w s
        = .next { s with done := true, errcode := 4, lastop := BitVec.ofNat 4 (w.toNat % 16) }) ∧
    (∀ (rsvd : BitVec 28) (opcode : BitVec 4),
      exec (.illegal rsvd opcode) s = .next { s with done := true, errcode := 4, lastop := opcode })

/-! ### Every command -/

/-- R100, R102: a start that passes its validation changes `STATUS` and the phase only, and the command exists; a KEYGEN
begins with no attempt made (R144). -/
def Obligations.StartFrame : Prop :=
  ∀ (i : Instr) (s t : State) (op : Op), s.phase = .idle → exec i s = .next t → t.phase = .busy op →
    i = op.instr ∧ op.present s.config = true ∧ validate op s = .ok ∧
    t = { s with done := false, errcode := 0, lastop := op.opcode, phase := .busy op,
                 replies := if op = .keygen then [] else s.replies }

/-- R191: a completion with a non-zero code, at the start or after it, changes only `STATUS` and the phase (and a KEYGEN
keeps no answer it was given, R153): no window, `LEN` or `KBITS` is written. -/
def Obligations.ErrorWritesNothing : Prop :=
  ∀ (i : Instr) (s t : State), exec i s = .next t → t.phase = .idle → t.errcode ≠ 0 →
    t = { s with done := true, errcode := t.errcode, lastop := t.lastop, phase := .idle, replies := t.replies }

/-- R104, R33, R193: every completion sets `DONE`, whatever its code, so it raises the interrupt line exactly when
`IRQ_EN` is set; while a started command is busy the line is low. -/
def Obligations.CompletionRaisesInterrupt : Prop :=
  ∀ (i : Instr) (s t : State), exec i s = .next t →
    (t.phase = .idle → t.done = true ∧ t.irq = s.irqEn) ∧
    (s.phase = .idle → t.phase ≠ .idle → t.irq = false)

/-! ### The bus -/

/-- R215, R25: while busy a write is dropped and sets `WERR`, except a write of `STATUS`, which clears the bits it
names. -/
def Obligations.BusyDropsWrites : Prop :=
  ∀ (off : Offset) (w : Word) (s : State) (op : Op), s.phase = .busy op →
    (off.toNat / 4 * 4 ≠ 0x010 → busWrite off w s = .next { s with werr := true }) ∧
    (off.toNat / 4 * 4 = 0x010 →
      busWrite off w s = .next { s with done := s.done && !w.getLsbD 1, werr := s.werr && !w.getLsbD 2 })

/-- R214: while busy every window reads 0 and no read tells anything of the windows' contents; registers read as they
are. -/
def Obligations.BusyHidesWindows : Prop :=
  ∀ (off : Offset) (s : State) (op : Op), s.phase = .busy op →
    (0x1000 ≤ off.toNat → busRead off s = 0) ∧
    (∀ m : Memory, busRead off (s.withMem m) = busRead off s) ∧
    (off.toNat < 0x1000 → off.toNat / 4 * 4 ≠ 0x010 → busRead off s = busRead off { s with phase := .idle }) ∧
    (off.toNat / 4 * 4 = 0x010 → busRead off s = busRead off { s with phase := .idle } + 1)

/-- R52: the offset's bits 1:0 are ignored, and no access faults. -/
def Obligations.LowOffsetBitsIgnored : Prop :=
  ∀ (off off' : Offset) (w : Word) (s : State), off.toNat / 4 = off'.toNat / 4 →
    busRead off s = busRead off' s ∧ busWrite off w s = busWrite off' w s ∧ ∃ t, busWrite off w s = .next t

/-- R54: the lanes of a window's word, read (any window the engine has) and written (the host-writable windows), and
what a write leaves: every other byte and field. -/
def Obligations.WindowWordLanes : Prop :=
  ∀ (W : Window) (o : Nat) (off : Offset) (s : State), s.phase = .idle → s.mem.wf = true → o % 4 = 0 →
    o < s.config.maxlen → off.toNat = W.base + o →
    (W.present s.config.hasKeygen = true →
      (busRead off s).toNat = (s.win W o).toNat * 2 ^ 24 + (s.win W (o + 1)).toNat * 2 ^ 16
        + (s.win W (o + 2)).toNat * 2 ^ 8 + (s.win W (o + 3)).toNat) ∧
    (W.hostWritable = true → ∀ w : Word, ∃ t, busWrite off w s = .next t ∧ busRead off t = w ∧
      (t.win W o).toNat = w.toNat / 2 ^ 24 ∧ (t.win W (o + 1)).toNat = w.toNat / 2 ^ 16 % 2 ^ 8 ∧
      (t.win W (o + 2)).toNat = w.toNat / 2 ^ 8 % 2 ^ 8 ∧ (t.win W (o + 3)).toNat = w.toNat % 2 ^ 8 ∧
      t = { s with mem := t.mem } ∧
      ∀ a, a < W.base + o ∨ W.base + o + 4 ≤ a → t.mem.read a = s.mem.read a)

/-- R53: unmapped offsets, window bytes from `MAXLEN` on, and without the key generator `E_OUT` and `D_OUT`, read 0 and
ignore writes (so do `R`, `E_OUT`, `D_OUT` and the read-only registers with their writes: R28, R58); reserved register
bits read 0 and ignore writes; without the key generator `KBITS` and `EMODE` read 0 and keep their value. While busy a
write has no effect but `WERR`. -/
def Obligations.ReservedReadsZeroWritesIgnored : Prop :=
  ∀ (off : Offset) (w : Word) (s : State) (a : Nat), a = off.toNat / 4 * 4 →
    ((0x01C ≤ a ∧ a < 0x1000) ∨ 0x7000 ≤ a ∨
        (0x1000 ≤ a ∧ a < 0x7000 ∧ s.config.maxlen ≤ a % 0x1000) ∨
        (0x5000 ≤ a ∧ a < 0x7000 ∧ s.config.hasKeygen = false) →
      busRead off s = 0 ∧ (s.phase = .idle → busWrite off w s = .next s) ∧
      (s.phase ≠ .idle → busWrite off w s = .next { s with werr := true })) ∧
    (a = 0x000 ∨ a = 0x004 ∨ (0x4000 ≤ a ∧ a < 0x7000) → s.phase = .idle → busWrite off w s = .next s) ∧
    (a = 0x004 → (busRead off s).toNat < 2 ^ 17) ∧
    (a = 0x008 → (busRead off s).toNat < 4 ∧ (s.phase = .idle → ∀ w', w'.toNat % 4 = w.toNat % 4 →
      busWrite off w' s = busWrite off w s)) ∧
    (a = 0x014 ∨ a = 0x018 → (busRead off s).toNat < 2 ^ 16 ∧ (s.phase = .idle → ∀ w',
      w'.toNat % 2 ^ 16 = w.toNat % 2 ^ 16 → busWrite off w' s = busWrite off w s)) ∧
    (a = 0x010 → (busRead off s).toNat < 2 ^ 12 ∧ (busRead off s).getLsbD 3 = false ∧
      ∀ w', w'.getLsbD 1 = w.getLsbD 1 → w'.getLsbD 2 = w.getLsbD 2 → busWrite off w' s = busWrite off w s) ∧
    (s.config.hasKeygen = false →
      (a = 0x018 → busRead off s = 0 ∧ (s.phase = .idle → busWrite off w s = .next s)) ∧
      (a = 0x008 → (busRead off s).getLsbD 1 = false ∧
        (s.phase = .idle → busWrite off w s = .next { s with irqEn := w.getLsbD 0 })))

/-- R21, R22, R85 (and R23, R24, R26, R27 as reads): the words the registers read as. -/
def Obligations.RegisterReadValues : Prop :=
  ∀ (off : Offset) (s : State),
    (off.toNat = 0x000 → (busRead off s).toNat = 0x4D455801) ∧
    (off.toNat = 0x004 → (busRead off s).toNat = s.config.maxlen + 65536 * s.config.hasKeygen.toNat) ∧
    (off.toNat = 0x008 →
      (busRead off s).toNat = s.irqEn.toNat + 2 * (s.emode && s.config.hasKeygen).toNat) ∧
    (off.toNat = 0x00C → busRead off s = 0) ∧
    (off.toNat = 0x010 → (busRead off s).toNat
      = 256 * s.lastop.toNat + 16 * s.errcode.toNat + 4 * s.werr.toNat + 2 * s.done.toNat
        + (if s.phase = .idle then 0 else 1)) ∧
    (off.toNat = 0x014 → (busRead off s).toNat = s.len.toNat) ∧
    (off.toNat = 0x018 → s.config.hasKeygen = true → (busRead off s).toNat = s.kbits.toNat)

/-- R25, R23, R26, R27, R58: what a register write does while idle. -/
def Obligations.RegisterWrites : Prop :=
  ∀ (w : Word) (s : State), s.phase = .idle →
    busWrite 0x010 w s = .next { s with done := s.done && !w.getLsbD 1, werr := s.werr && !w.getLsbD 2 } ∧
    busWrite 0x014 w s = .next { s with len := BitVec.ofNat 16 w.toNat } ∧
    (s.config.hasKeygen = true →
      busWrite 0x008 w s = .next { s with irqEn := w.getLsbD 0, emode := w.getLsbD 1 } ∧
      busWrite 0x018 w s = .next { s with kbits := BitVec.ofNat 16 w.toNat })

/-- R50, R197: the engine answers at `BASE`: an address of its 64 KiB block reaches it at the offset, and a write
anywhere else does not (for which no other device is modelled: the model's choice, log entry 7). -/
def Obligations.BlockAtBase : Prop :=
  ∀ (addr : Nat) (w : Word) (s : State),
    (addr < s.config.base ∨ s.config.base + 65536 ≤ addr → hostWrite addr w s = .next s) ∧
    (∀ off : Offset, addr = s.config.base + off.toNat →
      hostWrite addr w s = busWrite off w s ∧ hostRead addr s = (busRead off s, s)) ∧
    s.config.base % 65536 = 0

/-! ### Steps and the whole machine -/

/-- R100, R58, R86: a step in which the host writes a word to `CMD` of an idle engine is `exec` of the instruction the
word decodes to; around it the step only takes the turn and the statement off their lists (log entries 1 and 2). -/
def Obligations.StepRunsDecodedCommand : Prop :=
  ∀ (s : State) (turns : List Agent) (addr : Nat) (off : Offset) (w : Word) (rest : List HostStmt),
    s.turns = .host :: turns → s.program = .wr addr w :: rest → offsetOf s.config addr = some off →
    off.toNat / 4 * 4 = 0x00C → s.phase = .idle →
    step s = exec (decode s.config.hasKeygen w) { s with turns := turns, program := rest }

/-- R103, R105: a step in which it is the engine's turn (log entry 2), whatever steps came before, is `exec` of the command
in flight, and nothing when idle (R200). -/
def Obligations.StepCompletesCommandInFlight : Prop :=
  ∀ (s : State) (turns : List Agent), s.turns = .engine :: turns →
    (∀ op, s.phase = .busy op → step s = exec op.instr { s with turns := turns }) ∧
    (s.phase = .idle → step s = .next { s with turns := turns })

/-- R86, R61: the host's other statements: `RD` keeps the word read and changes nothing else, `POLL` goes on exactly
when the masked word is the value, `WAITIRQ` exactly when the line is high. -/
def Obligations.HostReadsPollsAndWaits : Prop :=
  ∀ (s : State) (addr : Nat) (off : Offset) (mask value : Word) (rest : List HostStmt),
    offsetOf s.config addr = some off →
    (s.program = .rd addr :: rest →
      hostStep s = .next { s with program := rest, reads := s.reads ++ [busRead off s] }) ∧
    (s.program = .poll addr mask value :: rest →
      hostStep s = .next { s with program := if busRead off s &&& mask = value then rest else s.program }) ∧
    (s.program = .waitIrq :: rest →
      hostStep s = .next { s with program := if s.done && s.irqEn then rest else s.program })

/-- R210: the reset event: every register and window takes its reset value and the command in flight and its RNG request
are abandoned, so that the RNG then gives the engine nothing; the parameters and the other agents are no state of the
engine (R20), so that they are kept is the model's choice (log entries 1 to 3 and 6). -/
def Obligations.ResetEvent : Prop :=
  ∀ (s : State) (turns : List Agent), s.turns = .reset :: turns →
    ∃ t, step s = .next t ∧ t = { State.reset with
      config := s.config, program := s.program, reads := s.reads, turns := turns, patience := s.patience,
      answers := s.answers, fresh := s.fresh } ∧ t.irq = false ∧ t.request = none ∧ rngStep t = .next t

/-- R35: what the machine reads as after reset, whatever it was before: `ID` and `CFG` their constants, every other offset
0; the fields and windows behind them are 0, the phase is idle, there are no temporaries, `irq` is 0. The reset state
itself is such a state (of the parameters of log entry 4). -/
def Obligations.ResetReadValues : Prop :=
  (∀ s : State,
    (∀ off : Offset, (busRead off s.resetEngine).toNat
      = if off.toNat / 4 * 4 = 0x000 then 0x4D455801
        else if off.toNat / 4 * 4 = 0x004 then s.config.maxlen + 65536 * s.config.hasKeygen.toNat else 0) ∧
    s.resetEngine.statusWord = 0 ∧ s.resetEngine.irqEn = false ∧ s.resetEngine.emode = false ∧
    s.resetEngine.len = 0 ∧ s.resetEngine.kbits = 0 ∧ (∀ W i, s.resetEngine.win W i = 0) ∧
    s.resetEngine.phase = .idle ∧ s.resetEngine.replies = [] ∧ s.resetEngine.irq = false) ∧
  State.reset.resetEngine = State.reset

/-- R62, R52, R180: every step of the machine answers a next state. -/
def Obligations.EveryStepHasNext : Prop := ∀ s : State, ∃ t, step s = .next t

/-- The invariant of the machine (canonical memory of bytes that exist; a produced completion code, R188; the busy
state's fields, R102; the fields of an absent key generator, R53; RNG answers only for a KEYGEN in flight, at most
`KG_ITER_CAP`, R153, R156) is kept by every step. -/
def Obligations.StepKeepsInvariant : Prop := ∀ s t : State, s.Inv = true → step s = .next t → t.Inv = true

/-- The invariant holds at reset. -/
def Obligations.ResetMeetsInvariant : Prop := State.reset.Inv = true

/-- R7: no step changes a parameter. -/
def Obligations.ParametersNeverChange : Prop := ∀ s t : State, step s = .next t → t.config = s.config

/-- R31, R102, R106: while a command is in flight nothing changes its operands: a step after which the engine is still
busy leaves the command, the windows, `LEN`, `KBITS`, `CTRL`, `ERRCODE`, `LASTOP` and the RNG's answers so far, to which
only the RNG adds one. -/
def Obligations.OperandsFrozenWhileBusy : Prop :=
  ∀ (s t : State) (op op' : Op), s.phase = .busy op → step s = .next t → t.phase = .busy op' →
    t = { s with done := t.done, werr := t.werr, program := t.program, reads := t.reads, turns := t.turns,
                 patience := t.patience, replies := t.replies, answers := t.answers, fresh := t.fresh } ∧
    (t.replies = s.replies ∨ ((takeTurn s).1 = .rng ∧ ∃ a, t.replies = s.replies ++ [a]))

/-- R105, R221: weak fairness. A busy engine leaves the busy state after finitely many steps, and what ends it is the
completion step, or a reset; whatever list of turns the run begins with (log entry 2). -/
def Obligations.BusyEngineCompletes : Prop :=
  ∀ (s : State) (op : Op), s.phase = .busy op → ∃ k u t,
    core.run k s = .next u ∧ u.phase = .busy op ∧ step u = .next t ∧ t.phase = .idle ∧
    (((takeTurn u).1 = .engine ∧ t.done = true) ∨ (takeTurn u).1 = .reset)

/-- R28: who writes a window. A byte of a window changes in a step only by a host write to a host-writable window while
idle, by the completion of a command that R28 lists as its writer, or by reset. -/
def Obligations.WindowWriters : Prop :=
  ∀ (s t : State) (W : Window) (i : Nat), s.mem.wf = true → i < s.config.maxlen → step s = .next t →
    t.win W i ≠ s.win W i →
    (s.phase = .idle ∧ W.hostWritable = true ∧ (takeTurn s).1 = .host) ∨
    (s.phase = .busy .modexp ∧ W = .r ∧ (takeTurn s).1 = .engine) ∨
    (s.phase = .busy .keygen ∧ (W = .n ∨ W = .eOut ∨ W = .dOut) ∧ (takeTurn s).1 = .engine) ∨
    (s.phase = .busy .zeroize ∧ (takeTurn s).1 = .engine) ∨
    (takeTurn s).1 = .reset

/-- R34, R25: `WERR` is cleared only by a `STATUS` write with bit 2 set, or by reset. -/
def Obligations.WriteErrorIsSticky : Prop :=
  ∀ s t : State, s.werr = true → step s = .next t → t.werr = false →
    (takeTurn s).1 = .reset ∨
    ((takeTurn s).1 = .host ∧ ∃ addr w rest off, s.program = .wr addr w :: rest ∧
      offsetOf s.config addr = some off ∧ off.toNat / 4 * 4 = 0x010 ∧ w.getLsbD 2 = true)

/-- R190: a `STATUS` write that clears `DONE` and the completion step of a command whose RNG requests are answered, in
either order: written first, `DONE` ends set; written last, it ends cleared. -/
def Obligations.ClearAndCompletionInEitherOrder : Prop :=
  ∀ (s : State) (op : Op) (w : Word), s.phase = .busy op → s.request = none → w.getLsbD 1 = true →
    (∃ t u, busWrite 0x010 w s = .next t ∧ exec op.instr t = .next u ∧ u.done = true ∧ u.phase = .idle) ∧
    (∃ t u, exec op.instr s = .next t ∧ busWrite 0x010 w t = .next u ∧ u.done = false ∧ u.phase = .idle)
end

