-- ==== Sys2Proof/Laws/Arith.lean ====
section
/-! SUPPORT. The laws of the arithmetic: square-and-multiply is the power (R122), the Euclid inverse is the inverse
(R150), the exact test is primality. -/

namespace Sys2Proof.Machine

/-- The loop invariant of square-and-multiply: the accumulator times the remaining power. -/
theorem powLoop_eq (n bits base k acc : Nat) (hk : k < 2 ^ bits) (hacc : acc % n = acc) :
    powLoop n bits base k acc = acc * base ^ k % n := by
  induction bits generalizing base k acc with
  | zero => simp at hk; simp [powLoop, hk, hacc]
  | succ bits ih =>
    have hk2 : k / 2 < 2 ^ bits := by rw [pow_succ] at hk; omega
    have hsq : ∀ c : Nat, c * (base * base % n) ^ (k / 2) % n = c * (base ^ 2) ^ (k / 2) % n := by
      intro c
      rw [Nat.mul_mod, Nat.pow_mod, Nat.mod_mod, ← Nat.pow_mod, ← Nat.mul_mod, pow_two]
    have hpow : base ^ k = base ^ (k % 2) * (base ^ 2) ^ (k / 2) := by
      rw [← pow_mul, ← pow_add]
      congr 1
      omega
    rw [powLoop]
    split
    · next h =>
      rw [ih _ _ _ hk2 (Nat.mod_mod _ _), hsq, hpow, h, pow_one, Nat.mul_mod, Nat.mod_mod, ← Nat.mul_mod, mul_assoc]
    · next h =>
      have h0 : k % 2 = 0 := by omega
      rw [ih _ _ _ hk2 hacc, hsq, hpow, h0, pow_zero, one_mul]

/-- Square-and-multiply computes `x^k mod n` (R122). -/
theorem modPow_eq (bits x k n : Nat) (hk : k < 2 ^ bits) : modPow bits x k n = x ^ k % n := by
  unfold modPow
  rw [powLoop_eq n bits _ k _ hk (Nat.mod_mod _ _), Nat.mul_mod, Nat.mod_mod, ← Nat.mul_mod, one_mul, ← Nat.pow_mod]

/-- Euclid's inverse: in range, and an inverse. -/
theorem invLoop_spec (fuel a m : Nat) (hm : 1 < m) (ha : a < m) (hf : a ≤ fuel) (hg : Nat.gcd a m = 1) :
    invLoop fuel a m < m ∧ a * invLoop fuel a m % m = 1 := by
  induction fuel generalizing a m with
  | zero =>
    have : a = 0 := by omega
    subst this
    simp at hg
    omega
  | succ fuel ih =>
    rw [invLoop]
    split
    · next h =>
      have : a ≠ 0 := by rintro rfl; simp at hg; omega
      have : a = 1 := by omega
      subst this
      exact ⟨hm, by rw [Nat.mul_one, Nat.mod_eq_of_lt hm]⟩
    · next h =>
      have ha1 : 1 < a := by omega
      have hr : m % a < a := Nat.mod_lt _ (by omega)
      have hg' : Nat.gcd (m % a) a = 1 := by rw [← hg, Nat.gcd_rec a m]
      obtain ⟨ht, hinv⟩ := ih (m % a) a ha1 hr (by omega) hg'
      generalize invLoop fuel (m % a) a = t at ht hinv
      have hmt : m * t % a = 1 := Eq.trans ((Nat.mod_modEq m a).mul_right t).symm hinv
      have htpos : 0 < t := by
        rcases Nat.eq_zero_or_pos t with h0 | h0
        · rw [h0, Nat.mul_zero, Nat.zero_mod] at hmt; omega
        · exact h0
      have hdvd : a ∣ m * (a - t) + 1 := by
        have h1 : m * (a - t) + 1 + (m * t - 1) = m * a := by
          have : 1 ≤ m * t := Nat.mul_pos (by omega) htpos
          have : m * (a - t) + m * t = m * a := by rw [← Nat.mul_add]; congr 1; omega
          omega
        have h2 : a ∣ m * t - 1 := by
          have := Nat.div_add_mod (m * t) a
          rw [hmt] at this
          exact ⟨m * t / a, by omega⟩
        exact (Nat.dvd_add_left h2).1 (h1 ▸ Dvd.intro_left m rfl)
      obtain ⟨d, hd⟩ := hdvd
      rw [hd, Nat.mul_div_cancel_left _ (by omega)]
      constructor
      · by_contra hge
        have h1 : a * m ≤ a * d := Nat.mul_le_mul_left a (by omega)
        have h2 : m * (a - t) + m * t = a * m := by
          rw [← Nat.mul_add, Nat.mul_comm a m]; congr 1; omega
        have h3 : m ≤ m * t := Nat.le_mul_of_pos_right m htpos
        omega
      · rw [← hd, Nat.add_mod, Nat.mul_mod_right, Nat.zero_add, Nat.mod_mod, Nat.mod_eq_of_lt hm]

/-- `inv(e, m)` (R10, R150). -/
theorem modInv_spec (e m : Nat) (hm : 1 < m) (hg : Nat.gcd e m = 1) :
    modInv e m < m ∧ e * modInv e m % m = 1 := by
  have he : e % m < m := Nat.mod_lt _ (by omega)
  have hg' : Nat.gcd (e % m) m = 1 := by rw [← Nat.gcd_rec m e, Nat.gcd_comm, hg]
  obtain ⟨h1, h2⟩ := invLoop_spec m (e % m) m hm he (by omega) hg'
  exact ⟨h1, Eq.trans ((Nat.mod_modEq e m).mul_right _).symm h2⟩

theorem noDivisorFrom_spec (fuel d c : Nat) (hf : c < d + fuel) (hd : 2 ≤ d) (h : noDivisorFrom fuel d c = true) :
    ∀ m, d ≤ m → m * m ≤ c → ¬ m ∣ c := by
  induction fuel generalizing d with
  | zero =>
    intro m hm hmc _
    have : m * d ≤ m * m := Nat.mul_le_mul_left m hm
    nlinarith
  | succ fuel ih =>
    intro m hm hmc hdvd
    rw [noDivisorFrom] at h
    split at h
    · next hlt =>
      have := Nat.mul_le_mul hm hm
      omega
    · simp only [Bool.and_eq_true, bne_iff_ne] at h
      rcases Nat.eq_or_lt_of_le hm with heq | hlt
      · exact h.1 (heq ▸ Nat.mod_eq_zero_of_dvd hdvd)
      · exact ih (d + 1) (by omega) (by omega) h.2 m hlt hmc hdvd

/-- The exact test accepts only primes. -/
theorem prime_of_isPrime (c : Nat) (h : isPrime c = true) : Nat.Prime c := by
  unfold isPrime at h
  simp only [Bool.and_eq_true, decide_eq_true_eq] at h
  rw [Nat.prime_def_le_sqrt]
  exact ⟨h.1, fun m hm hs =>
    noDivisorFrom_spec c 2 c (by omega) (le_refl 2) h.2 m hm (Nat.le_sqrt.1 hs)⟩

end Sys2Proof.Machine
end

