-- ==== Sys2Proof/Laws/Memory.lean ====
section
/-! SUPPORT. The laws of the windows' bytes: what a read returns after a write, a fill or a clear, that every operation
keeps the canonical form, and that canonical memories with the same bytes are equal. -/

namespace Sys2Proof.Machine

theorem Memory.read_push (a : Nat) (v : Byte) (m : Memory) (x : Nat) (h : Memory.wfFrom (a + 1) m = true) :
    (Memory.push a v m).read x = if a = x then v else m.read x := by
  have hlow : ∀ (m : Memory) (lo : Nat), Memory.wfFrom lo m = true → ∀ y, y < lo → m.read y = 0 := by
    intro m
    induction m with
    | nil => intros; rfl
    | cons c m ih =>
      obtain ⟨b, u⟩ := c
      intro lo hw y hy
      simp only [Memory.wfFrom, Bool.and_eq_true, decide_eq_true_eq] at hw
      have h1 : y ≠ b := by omega
      have h2 : y < b := by omega
      simp [Memory.read, h1, h2]
  unfold Memory.push
  split
  · next hv =>
    split
    · next hx => subst hx; rw [hv]; exact hlow m _ h _ (Nat.lt_succ_self _)
    · rfl
  · by_cases hx : a = x
    · simp [Memory.read, hx]
    · by_cases hlt : x < a
      · have hx' : ¬ x = a := fun e => hx e.symm
        simp [Memory.read, hx, hx', hlt, hlow m _ h x (by omega)]
      · have hx' : ¬ x = a := fun e => hx e.symm
        simp [Memory.read, hx, hx', hlt]

theorem Memory.wfFrom_mono (m : Memory) (lo lo' : Nat) (hle : lo' ≤ lo) (h : Memory.wfFrom lo m = true) :
    Memory.wfFrom lo' m = true := by
  cases m with
  | nil => rfl
  | cons c m =>
    simp only [Memory.wfFrom, Bool.and_eq_true, decide_eq_true_eq] at h ⊢
    exact ⟨⟨by omega, h.1.2⟩, h.2⟩

/-- A canonical list has nothing below its lower bound. -/
theorem Memory.read_below (m : Memory) (lo y : Nat) (h : Memory.wfFrom lo m = true) (hy : y < lo) : m.read y = 0 := by
  cases m with
  | nil => rfl
  | cons c m =>
    simp only [Memory.wfFrom, Bool.and_eq_true, decide_eq_true_eq] at h
    have h1 : y ≠ c.1 := by omega
    have h2 : y < c.1 := by omega
    simp [Memory.read, h1, h2]

theorem Memory.wfFrom_push (a : Nat) (v : Byte) (m : Memory) (h : Memory.wfFrom (a + 1) m = true) :
    Memory.wfFrom a (Memory.push a v m) = true := by
  unfold Memory.push
  split
  · exact Memory.wfFrom_mono m _ _ (Nat.le_succ a) h
  · next hv => simpa [Memory.wfFrom, h] using hv

theorem Memory.wfFrom_write (m : Memory) (lo a : Nat) (v : Byte) (h : Memory.wfFrom lo m = true) (hlo : lo ≤ a) :
    Memory.wfFrom lo (m.write a v) = true := by
  induction m generalizing lo with
  | nil => exact Memory.wfFrom_mono _ _ _ hlo (Memory.wfFrom_push a v [] rfl)
  | cons c m ih =>
    obtain ⟨b, u⟩ := c
    have h' := h
    simp only [Memory.wfFrom, Bool.and_eq_true, decide_eq_true_eq] at h'
    simp only [Memory.write]
    split
    · refine Memory.wfFrom_mono _ _ _ hlo (Memory.wfFrom_push a v _ ?_)
      simp only [Memory.wfFrom, Bool.and_eq_true, decide_eq_true_eq]
      exact ⟨⟨by omega, h'.1.2⟩, h'.2⟩
    · split
      · next heq => exact Memory.wfFrom_mono _ _ _ hlo (Memory.wfFrom_push a v _ (by rw [heq]; exact h'.2))
      · simp only [Memory.wfFrom, Bool.and_eq_true, decide_eq_true_eq]
        exact ⟨h'.1, ih (b + 1) h'.2 (by omega)⟩

theorem Memory.read_write_from (m : Memory) (lo a : Nat) (v : Byte) (x : Nat) (h : Memory.wfFrom lo m = true) :
    (m.write a v).read x = if a = x then v else m.read x := by
  induction m generalizing lo with
  | nil => exact Memory.read_push a v [] x rfl
  | cons c m ih =>
    obtain ⟨b, u⟩ := c
    have h' := h
    simp only [Memory.wfFrom, Bool.and_eq_true, decide_eq_true_eq] at h'
    simp only [Memory.write]
    split
    · refine Memory.read_push a v _ x ?_
      simp only [Memory.wfFrom, Bool.and_eq_true, decide_eq_true_eq]
      exact ⟨⟨by omega, h'.1.2⟩, h'.2⟩
    · split
      · next heq =>
        subst heq
        rw [Memory.read_push a v m x h'.2]
        by_cases hx : a = x
        · simp [hx]
        · have hx' : ¬ x = a := fun e => hx e.symm
          by_cases hlt : x < a
          · simp [Memory.read, hx, hx', hlt, Memory.read_below m _ x h'.2 (by omega)]
          · simp [Memory.read, hx, hx', hlt]
      · next hb hne =>
        by_cases hx : x = b
        · have : ¬ a = x := fun e => hne (e.trans hx)
          simp [Memory.read, hx, hne]
        · by_cases hlt : x < b
          · have : ¬ a = x := by omega
            simp [Memory.read, hx, hlt, this]
          · simp [Memory.read, hx, hlt, ih (b + 1) h'.2]

/-- A read after a write. -/
theorem Memory.read_write (m : Memory) (a : Nat) (v : Byte) (x : Nat) (h : m.wf = true) :
    (m.write a v).read x = if a = x then v else m.read x := Memory.read_write_from m 0 a v x h

/-- A write keeps the canonical form. -/
theorem Memory.wf_write (m : Memory) (a : Nat) (v : Byte) (h : m.wf = true) : (m.write a v).wf = true :=
  Memory.wfFrom_write m 0 a v h (Nat.zero_le a)

/-- A fill keeps the canonical form. -/
theorem Memory.wf_fill (m : Memory) (b : Nat) (f : Nat → Byte) (n : Nat) (h : m.wf = true) :
    (m.fill b f n).wf = true := by
  induction n with
  | zero => exact h
  | succ n ih => exact Memory.wf_write _ _ _ ih

/-- A read after a fill. -/
theorem Memory.read_fill (m : Memory) (b : Nat) (f : Nat → Byte) (n x : Nat) (h : m.wf = true) :
    (m.fill b f n).read x = if b ≤ x ∧ x < b + n then f (x - b) else m.read x := by
  induction n with
  | zero => rw [if_neg (by omega)]; rfl
  | succ n ih =>
    rw [Memory.fill, Memory.read_write _ _ _ _ (Memory.wf_fill m b f n h), ih]
    by_cases hx : b + n = x
    · subst hx; simp
    · have : (b ≤ x ∧ x < b + (n + 1)) ↔ (b ≤ x ∧ x < b + n) := by omega
      simp [hx, this]

theorem Memory.wfFrom_clear (m : Memory) (lo b n : Nat) (h : Memory.wfFrom lo m = true) :
    Memory.wfFrom lo (m.clear b n) = true := by
  induction m generalizing lo with
  | nil => rfl
  | cons c m ih =>
    obtain ⟨a, u⟩ := c
    simp only [Memory.wfFrom, Bool.and_eq_true, decide_eq_true_eq] at h
    rw [Memory.clear]
    split
    · exact Memory.wfFrom_mono _ _ _ (by omega) (ih (a + 1) h.2)
    · simp only [Memory.wfFrom, Bool.and_eq_true, decide_eq_true_eq]
      exact ⟨h.1, ih (a + 1) h.2⟩

/-- A clear keeps the canonical form. -/
theorem Memory.wf_clear (m : Memory) (b n : Nat) (h : m.wf = true) : (m.clear b n).wf = true :=
  Memory.wfFrom_clear m 0 b n h

theorem Memory.read_clear_from (m : Memory) (lo b n x : Nat) (h : Memory.wfFrom lo m = true) :
    (m.clear b n).read x = if b ≤ x ∧ x < b + n then 0 else m.read x := by
  induction m generalizing lo with
  | nil => simp [Memory.clear, Memory.read]
  | cons c m ih =>
    obtain ⟨a, u⟩ := c
    simp only [Memory.wfFrom, Bool.and_eq_true, decide_eq_true_eq] at h
    rw [Memory.clear]
    by_cases hin : b ≤ a ∧ a < b + n
    · rw [if_pos hin, ih (a + 1) h.2]
      by_cases hx : x = a
      · subst hx; simp [hin]
      · by_cases hlt : x < a
        · simp [Memory.read, hx, hlt, Memory.read_below m _ x h.2 (by omega)]
        · simp [Memory.read, hx, hlt]
    · rw [if_neg hin]
      by_cases hx : x = a
      · subst hx; simp [Memory.read, hin]
      · by_cases hlt : x < a
        · simp [Memory.read, hx, hlt]
        · simp [Memory.read, hx, hlt, ih (a + 1) h.2]

/-- A read after a clear. -/
theorem Memory.read_clear (m : Memory) (b n x : Nat) (h : m.wf = true) :
    (m.clear b n).read x = if b ≤ x ∧ x < b + n then 0 else m.read x := Memory.read_clear_from m 0 b n x h

theorem Memory.eq_of_read_from (m m' : Memory) (lo : Nat) (h : Memory.wfFrom lo m = true)
    (h' : Memory.wfFrom lo m' = true) (hr : ∀ x, m.read x = m'.read x) : m = m' := by
  induction m generalizing m' lo with
  | nil =>
    cases m' with
    | nil => rfl
    | cons c m' =>
      have := hr c.1
      simp only [Memory.wfFrom, Bool.and_eq_true, bne_iff_ne] at h'
      exact absurd (by simpa [Memory.read] using this.symm) h'.1.2
  | cons c m ih =>
    obtain ⟨a, u⟩ := c
    simp only [Memory.wfFrom, Bool.and_eq_true, decide_eq_true_eq, bne_iff_ne] at h
    cases m' with
    | nil => exact absurd (by simpa [Memory.read] using hr a) h.1.2
    | cons c' m' =>
      obtain ⟨a', u'⟩ := c'
      simp only [Memory.wfFrom, Bool.and_eq_true, decide_eq_true_eq, bne_iff_ne] at h'
      have haa : a = a' := by
        rcases Nat.lt_trichotomy a a' with hlt | heq | hgt
        · have := hr a
          simp [Memory.read, Nat.ne_of_lt hlt, hlt] at this
          exact absurd this h.1.2
        · exact heq
        · have := hr a'
          simp [Memory.read, Nat.ne_of_lt hgt, hgt] at this
          exact absurd this.symm h'.1.2
      subst haa
      have huu : u = u' := by simpa [Memory.read] using hr a
      subst huu
      have : m = m' := by
        refine ih m' (a + 1) h.2 h'.2 fun x => ?_
        by_cases hx : x < a + 1
        · rw [Memory.read_below m _ x h.2 hx, Memory.read_below m' _ x h'.2 hx]
        · have h1 : x ≠ a := by omega
          have h2 : ¬ x < a := by omega
          simpa [Memory.read, h1, h2] using hr x
      rw [this]

/-- Canonical memories with the same bytes are equal. -/
theorem Memory.eq_of_read (m m' : Memory) (h : m.wf = true) (h' : m'.wf = true) (hr : ∀ x, m.read x = m'.read x) :
    m = m' := Memory.eq_of_read_from m m' 0 h h' hr

end Sys2Proof.Machine
end

