-- ==== Sys2Proof/Laws/State.lean ====
section
/-! SUPPORT. What each update of the state does to each field: true by rfl, for simp, so that no proof unfolds a record
update. -/

namespace Sys2Proof.Machine

variable (s : State)

/-! ### `State.withMem` -/

@[simp] theorem State.withMem_irqEn (m : Memory) : (s.withMem m).irqEn = s.irqEn := rfl
@[simp] theorem State.withMem_emode (m : Memory) : (s.withMem m).emode = s.emode := rfl
@[simp] theorem State.withMem_done (m : Memory) : (s.withMem m).done = s.done := rfl
@[simp] theorem State.withMem_werr (m : Memory) : (s.withMem m).werr = s.werr := rfl
@[simp] theorem State.withMem_errcode (m : Memory) : (s.withMem m).errcode = s.errcode := rfl
@[simp] theorem State.withMem_lastop (m : Memory) : (s.withMem m).lastop = s.lastop := rfl
@[simp] theorem State.withMem_len (m : Memory) : (s.withMem m).len = s.len := rfl
@[simp] theorem State.withMem_kbits (m : Memory) : (s.withMem m).kbits = s.kbits := rfl
@[simp] theorem State.withMem_mem (m : Memory) : (s.withMem m).mem = m := rfl
@[simp] theorem State.withMem_phase (m : Memory) : (s.withMem m).phase = s.phase := rfl
@[simp] theorem State.withMem_replies (m : Memory) : (s.withMem m).replies = s.replies := rfl
@[simp] theorem State.withMem_config (m : Memory) : (s.withMem m).config = s.config := rfl
@[simp] theorem State.withMem_program (m : Memory) : (s.withMem m).program = s.program := rfl
@[simp] theorem State.withMem_reads (m : Memory) : (s.withMem m).reads = s.reads := rfl
@[simp] theorem State.withMem_turns (m : Memory) : (s.withMem m).turns = s.turns := rfl
@[simp] theorem State.withMem_patience (m : Memory) : (s.withMem m).patience = s.patience := rfl
@[simp] theorem State.withMem_answers (m : Memory) : (s.withMem m).answers = s.answers := rfl
@[simp] theorem State.withMem_fresh (m : Memory) : (s.withMem m).fresh = s.fresh := rfl

/-! ### `State.setWin` -/

@[simp] theorem State.setWin_irqEn (W : Window) (o : Nat) (f : Nat → Byte) (n : Nat) :
    (s.setWin W o f n).irqEn = s.irqEn := rfl
@[simp] theorem State.setWin_emode (W : Window) (o : Nat) (f : Nat → Byte) (n : Nat) :
    (s.setWin W o f n).emode = s.emode := rfl
@[simp] theorem State.setWin_done (W : Window) (o : Nat) (f : Nat → Byte) (n : Nat) :
    (s.setWin W o f n).done = s.done := rfl
@[simp] theorem State.setWin_werr (W : Window) (o : Nat) (f : Nat → Byte) (n : Nat) :
    (s.setWin W o f n).werr = s.werr := rfl
@[simp] theorem State.setWin_errcode (W : Window) (o : Nat) (f : Nat → Byte) (n : Nat) :
    (s.setWin W o f n).errcode = s.errcode := rfl
@[simp] theorem State.setWin_lastop (W : Window) (o : Nat) (f : Nat → Byte) (n : Nat) :
    (s.setWin W o f n).lastop = s.lastop := rfl
@[simp] theorem State.setWin_len (W : Window) (o : Nat) (f : Nat → Byte) (n : Nat) :
    (s.setWin W o f n).len = s.len := rfl
@[simp] theorem State.setWin_kbits (W : Window) (o : Nat) (f : Nat → Byte) (n : Nat) :
    (s.setWin W o f n).kbits = s.kbits := rfl
@[simp] theorem State.setWin_mem (W : Window) (o : Nat) (f : Nat → Byte) (n : Nat) :
    (s.setWin W o f n).mem = s.mem.fill (W.base + o) f n := rfl
@[simp] theorem State.setWin_phase (W : Window) (o : Nat) (f : Nat → Byte) (n : Nat) :
    (s.setWin W o f n).phase = s.phase := rfl
@[simp] theorem State.setWin_replies (W : Window) (o : Nat) (f : Nat → Byte) (n : Nat) :
    (s.setWin W o f n).replies = s.replies := rfl
@[simp] theorem State.setWin_config (W : Window) (o : Nat) (f : Nat → Byte) (n : Nat) :
    (s.setWin W o f n).config = s.config := rfl
@[simp] theorem State.setWin_program (W : Window) (o : Nat) (f : Nat → Byte) (n : Nat) :
    (s.setWin W o f n).program = s.program := rfl
@[simp] theorem State.setWin_reads (W : Window) (o : Nat) (f : Nat → Byte) (n : Nat) :
    (s.setWin W o f n).reads = s.reads := rfl
@[simp] theorem State.setWin_turns (W : Window) (o : Nat) (f : Nat → Byte) (n : Nat) :
    (s.setWin W o f n).turns = s.turns := rfl
@[simp] theorem State.setWin_patience (W : Window) (o : Nat) (f : Nat → Byte) (n : Nat) :
    (s.setWin W o f n).patience = s.patience := rfl
@[simp] theorem State.setWin_answers (W : Window) (o : Nat) (f : Nat → Byte) (n : Nat) :
    (s.setWin W o f n).answers = s.answers := rfl
@[simp] theorem State.setWin_fresh (W : Window) (o : Nat) (f : Nat → Byte) (n : Nat) :
    (s.setWin W o f n).fresh = s.fresh := rfl

/-! ### `State.clearWin` -/

@[simp] theorem State.clearWin_irqEn (W : Window) : (s.clearWin W).irqEn = s.irqEn := rfl
@[simp] theorem State.clearWin_emode (W : Window) : (s.clearWin W).emode = s.emode := rfl
@[simp] theorem State.clearWin_done (W : Window) : (s.clearWin W).done = s.done := rfl
@[simp] theorem State.clearWin_werr (W : Window) : (s.clearWin W).werr = s.werr := rfl
@[simp] theorem State.clearWin_errcode (W : Window) : (s.clearWin W).errcode = s.errcode := rfl
@[simp] theorem State.clearWin_lastop (W : Window) : (s.clearWin W).lastop = s.lastop := rfl
@[simp] theorem State.clearWin_len (W : Window) : (s.clearWin W).len = s.len := rfl
@[simp] theorem State.clearWin_kbits (W : Window) : (s.clearWin W).kbits = s.kbits := rfl
@[simp] theorem State.clearWin_mem (W : Window) : (s.clearWin W).mem = s.mem.clear W.base s.config.maxlen := rfl
@[simp] theorem State.clearWin_phase (W : Window) : (s.clearWin W).phase = s.phase := rfl
@[simp] theorem State.clearWin_replies (W : Window) : (s.clearWin W).replies = s.replies := rfl
@[simp] theorem State.clearWin_config (W : Window) : (s.clearWin W).config = s.config := rfl
@[simp] theorem State.clearWin_program (W : Window) : (s.clearWin W).program = s.program := rfl
@[simp] theorem State.clearWin_reads (W : Window) : (s.clearWin W).reads = s.reads := rfl
@[simp] theorem State.clearWin_turns (W : Window) : (s.clearWin W).turns = s.turns := rfl
@[simp] theorem State.clearWin_patience (W : Window) : (s.clearWin W).patience = s.patience := rfl
@[simp] theorem State.clearWin_answers (W : Window) : (s.clearWin W).answers = s.answers := rfl
@[simp] theorem State.clearWin_fresh (W : Window) : (s.clearWin W).fresh = s.fresh := rfl

/-! ### `State.setWinWord` -/

@[simp] theorem State.setWinWord_irqEn (W : Window) (o : Nat) (w : Word) : (s.setWinWord W o w).irqEn = s.irqEn := rfl
@[simp] theorem State.setWinWord_emode (W : Window) (o : Nat) (w : Word) : (s.setWinWord W o w).emode = s.emode := rfl
@[simp] theorem State.setWinWord_done (W : Window) (o : Nat) (w : Word) : (s.setWinWord W o w).done = s.done := rfl
@[simp] theorem State.setWinWord_werr (W : Window) (o : Nat) (w : Word) : (s.setWinWord W o w).werr = s.werr := rfl
@[simp] theorem State.setWinWord_errcode (W : Window) (o : Nat) (w : Word) :
    (s.setWinWord W o w).errcode = s.errcode := rfl
@[simp] theorem State.setWinWord_lastop (W : Window) (o : Nat) (w : Word) :
    (s.setWinWord W o w).lastop = s.lastop := rfl
@[simp] theorem State.setWinWord_len (W : Window) (o : Nat) (w : Word) : (s.setWinWord W o w).len = s.len := rfl
@[simp] theorem State.setWinWord_kbits (W : Window) (o : Nat) (w : Word) : (s.setWinWord W o w).kbits = s.kbits := rfl
@[simp] theorem State.setWinWord_mem (W : Window) (o : Nat) (w : Word) :
    (s.setWinWord W o w).mem = s.mem.fill (W.base + o) (laneByte w) 4 := rfl
@[simp] theorem State.setWinWord_phase (W : Window) (o : Nat) (w : Word) : (s.setWinWord W o w).phase = s.phase := rfl
@[simp] theorem State.setWinWord_replies (W : Window) (o : Nat) (w : Word) :
    (s.setWinWord W o w).replies = s.replies := rfl
@[simp] theorem State.setWinWord_config (W : Window) (o : Nat) (w : Word) :
    (s.setWinWord W o w).config = s.config := rfl
@[simp] theorem State.setWinWord_program (W : Window) (o : Nat) (w : Word) :
    (s.setWinWord W o w).program = s.program := rfl
@[simp] theorem State.setWinWord_reads (W : Window) (o : Nat) (w : Word) : (s.setWinWord W o w).reads = s.reads := rfl
@[simp] theorem State.setWinWord_turns (W : Window) (o : Nat) (w : Word) : (s.setWinWord W o w).turns = s.turns := rfl
@[simp] theorem State.setWinWord_patience (W : Window) (o : Nat) (w : Word) :
    (s.setWinWord W o w).patience = s.patience := rfl
@[simp] theorem State.setWinWord_answers (W : Window) (o : Nat) (w : Word) :
    (s.setWinWord W o w).answers = s.answers := rfl
@[simp] theorem State.setWinWord_fresh (W : Window) (o : Nat) (w : Word) : (s.setWinWord W o w).fresh = s.fresh := rfl

/-! ### `State.put` -/

@[simp] theorem State.put_irqEn (W : Window) (L v : Nat) : (s.put W L v).irqEn = s.irqEn := rfl
@[simp] theorem State.put_emode (W : Window) (L v : Nat) : (s.put W L v).emode = s.emode := rfl
@[simp] theorem State.put_done (W : Window) (L v : Nat) : (s.put W L v).done = s.done := rfl
@[simp] theorem State.put_werr (W : Window) (L v : Nat) : (s.put W L v).werr = s.werr := rfl
@[simp] theorem State.put_errcode (W : Window) (L v : Nat) : (s.put W L v).errcode = s.errcode := rfl
@[simp] theorem State.put_lastop (W : Window) (L v : Nat) : (s.put W L v).lastop = s.lastop := rfl
@[simp] theorem State.put_len (W : Window) (L v : Nat) : (s.put W L v).len = s.len := rfl
@[simp] theorem State.put_kbits (W : Window) (L v : Nat) : (s.put W L v).kbits = s.kbits := rfl
@[simp] theorem State.put_mem (W : Window) (L v : Nat) :
    (s.put W L v).mem
      = (s.mem.clear W.base s.config.maxlen).fill (W.base + 0) (beByte L v) (min L s.config.maxlen) := rfl
@[simp] theorem State.put_phase (W : Window) (L v : Nat) : (s.put W L v).phase = s.phase := rfl
@[simp] theorem State.put_replies (W : Window) (L v : Nat) : (s.put W L v).replies = s.replies := rfl
@[simp] theorem State.put_config (W : Window) (L v : Nat) : (s.put W L v).config = s.config := rfl
@[simp] theorem State.put_program (W : Window) (L v : Nat) : (s.put W L v).program = s.program := rfl
@[simp] theorem State.put_reads (W : Window) (L v : Nat) : (s.put W L v).reads = s.reads := rfl
@[simp] theorem State.put_turns (W : Window) (L v : Nat) : (s.put W L v).turns = s.turns := rfl
@[simp] theorem State.put_patience (W : Window) (L v : Nat) : (s.put W L v).patience = s.patience := rfl
@[simp] theorem State.put_answers (W : Window) (L v : Nat) : (s.put W L v).answers = s.answers := rfl
@[simp] theorem State.put_fresh (W : Window) (L v : Nat) : (s.put W L v).fresh = s.fresh := rfl

/-! ### `State.complete` -/

@[simp] theorem State.complete_irqEn (code : Code) : (s.complete code).irqEn = s.irqEn := rfl
@[simp] theorem State.complete_emode (code : Code) : (s.complete code).emode = s.emode := rfl
@[simp] theorem State.complete_done (code : Code) : (s.complete code).done = true := rfl
@[simp] theorem State.complete_werr (code : Code) : (s.complete code).werr = s.werr := rfl
@[simp] theorem State.complete_errcode (code : Code) : (s.complete code).errcode = code.bits := rfl
@[simp] theorem State.complete_lastop (code : Code) : (s.complete code).lastop = s.lastop := rfl
@[simp] theorem State.complete_len (code : Code) : (s.complete code).len = s.len := rfl
@[simp] theorem State.complete_kbits (code : Code) : (s.complete code).kbits = s.kbits := rfl
@[simp] theorem State.complete_mem (code : Code) : (s.complete code).mem = s.mem := rfl
@[simp] theorem State.complete_phase (code : Code) : (s.complete code).phase = .idle := rfl
@[simp] theorem State.complete_replies (code : Code) : (s.complete code).replies = s.replies := rfl
@[simp] theorem State.complete_config (code : Code) : (s.complete code).config = s.config := rfl
@[simp] theorem State.complete_program (code : Code) : (s.complete code).program = s.program := rfl
@[simp] theorem State.complete_reads (code : Code) : (s.complete code).reads = s.reads := rfl
@[simp] theorem State.complete_turns (code : Code) : (s.complete code).turns = s.turns := rfl
@[simp] theorem State.complete_patience (code : Code) : (s.complete code).patience = s.patience := rfl
@[simp] theorem State.complete_answers (code : Code) : (s.complete code).answers = s.answers := rfl
@[simp] theorem State.complete_fresh (code : Code) : (s.complete code).fresh = s.fresh := rfl

/-! ### `State.beginCommand` -/

@[simp] theorem State.beginCommand_irqEn (opcode : BitVec 4) : (s.beginCommand opcode).irqEn = s.irqEn := rfl
@[simp] theorem State.beginCommand_emode (opcode : BitVec 4) : (s.beginCommand opcode).emode = s.emode := rfl
@[simp] theorem State.beginCommand_done (opcode : BitVec 4) : (s.beginCommand opcode).done = false := rfl
@[simp] theorem State.beginCommand_werr (opcode : BitVec 4) : (s.beginCommand opcode).werr = s.werr := rfl
@[simp] theorem State.beginCommand_errcode (opcode : BitVec 4) : (s.beginCommand opcode).errcode = 0 := rfl
@[simp] theorem State.beginCommand_lastop (opcode : BitVec 4) : (s.beginCommand opcode).lastop = opcode := rfl
@[simp] theorem State.beginCommand_len (opcode : BitVec 4) : (s.beginCommand opcode).len = s.len := rfl
@[simp] theorem State.beginCommand_kbits (opcode : BitVec 4) : (s.beginCommand opcode).kbits = s.kbits := rfl
@[simp] theorem State.beginCommand_mem (opcode : BitVec 4) : (s.beginCommand opcode).mem = s.mem := rfl
@[simp] theorem State.beginCommand_phase (opcode : BitVec 4) : (s.beginCommand opcode).phase = s.phase := rfl
@[simp] theorem State.beginCommand_replies (opcode : BitVec 4) : (s.beginCommand opcode).replies = s.replies := rfl
@[simp] theorem State.beginCommand_config (opcode : BitVec 4) : (s.beginCommand opcode).config = s.config := rfl
@[simp] theorem State.beginCommand_program (opcode : BitVec 4) : (s.beginCommand opcode).program = s.program := rfl
@[simp] theorem State.beginCommand_reads (opcode : BitVec 4) : (s.beginCommand opcode).reads = s.reads := rfl
@[simp] theorem State.beginCommand_turns (opcode : BitVec 4) : (s.beginCommand opcode).turns = s.turns := rfl
@[simp] theorem State.beginCommand_patience (opcode : BitVec 4) : (s.beginCommand opcode).patience = s.patience := rfl
@[simp] theorem State.beginCommand_answers (opcode : BitVec 4) : (s.beginCommand opcode).answers = s.answers := rfl
@[simp] theorem State.beginCommand_fresh (opcode : BitVec 4) : (s.beginCommand opcode).fresh = s.fresh := rfl

/-! ### `State.startIllegal` -/

@[simp] theorem State.startIllegal_irqEn (opcode : BitVec 4) : (s.startIllegal opcode).irqEn = s.irqEn := rfl
@[simp] theorem State.startIllegal_emode (opcode : BitVec 4) : (s.startIllegal opcode).emode = s.emode := rfl
@[simp] theorem State.startIllegal_done (opcode : BitVec 4) : (s.startIllegal opcode).done = true := rfl
@[simp] theorem State.startIllegal_werr (opcode : BitVec 4) : (s.startIllegal opcode).werr = s.werr := rfl
@[simp] theorem State.startIllegal_errcode (opcode : BitVec 4) : (s.startIllegal opcode).errcode = 0x4 := rfl
@[simp] theorem State.startIllegal_lastop (opcode : BitVec 4) : (s.startIllegal opcode).lastop = opcode := rfl
@[simp] theorem State.startIllegal_len (opcode : BitVec 4) : (s.startIllegal opcode).len = s.len := rfl
@[simp] theorem State.startIllegal_kbits (opcode : BitVec 4) : (s.startIllegal opcode).kbits = s.kbits := rfl
@[simp] theorem State.startIllegal_mem (opcode : BitVec 4) : (s.startIllegal opcode).mem = s.mem := rfl
@[simp] theorem State.startIllegal_phase (opcode : BitVec 4) : (s.startIllegal opcode).phase = .idle := rfl
@[simp] theorem State.startIllegal_replies (opcode : BitVec 4) : (s.startIllegal opcode).replies = s.replies := rfl
@[simp] theorem State.startIllegal_config (opcode : BitVec 4) : (s.startIllegal opcode).config = s.config := rfl
@[simp] theorem State.startIllegal_program (opcode : BitVec 4) : (s.startIllegal opcode).program = s.program := rfl
@[simp] theorem State.startIllegal_reads (opcode : BitVec 4) : (s.startIllegal opcode).reads = s.reads := rfl
@[simp] theorem State.startIllegal_turns (opcode : BitVec 4) : (s.startIllegal opcode).turns = s.turns := rfl
@[simp] theorem State.startIllegal_patience (opcode : BitVec 4) : (s.startIllegal opcode).patience = s.patience := rfl
@[simp] theorem State.startIllegal_answers (opcode : BitVec 4) : (s.startIllegal opcode).answers = s.answers := rfl
@[simp] theorem State.startIllegal_fresh (opcode : BitVec 4) : (s.startIllegal opcode).fresh = s.fresh := rfl

/-! ### `State.dropWrite` -/

@[simp] theorem State.dropWrite_irqEn : (s.dropWrite).irqEn = s.irqEn := rfl
@[simp] theorem State.dropWrite_emode : (s.dropWrite).emode = s.emode := rfl
@[simp] theorem State.dropWrite_done : (s.dropWrite).done = s.done := rfl
@[simp] theorem State.dropWrite_werr : (s.dropWrite).werr = true := rfl
@[simp] theorem State.dropWrite_errcode : (s.dropWrite).errcode = s.errcode := rfl
@[simp] theorem State.dropWrite_lastop : (s.dropWrite).lastop = s.lastop := rfl
@[simp] theorem State.dropWrite_len : (s.dropWrite).len = s.len := rfl
@[simp] theorem State.dropWrite_kbits : (s.dropWrite).kbits = s.kbits := rfl
@[simp] theorem State.dropWrite_mem : (s.dropWrite).mem = s.mem := rfl
@[simp] theorem State.dropWrite_phase : (s.dropWrite).phase = s.phase := rfl
@[simp] theorem State.dropWrite_replies : (s.dropWrite).replies = s.replies := rfl
@[simp] theorem State.dropWrite_config : (s.dropWrite).config = s.config := rfl
@[simp] theorem State.dropWrite_program : (s.dropWrite).program = s.program := rfl
@[simp] theorem State.dropWrite_reads : (s.dropWrite).reads = s.reads := rfl
@[simp] theorem State.dropWrite_turns : (s.dropWrite).turns = s.turns := rfl
@[simp] theorem State.dropWrite_patience : (s.dropWrite).patience = s.patience := rfl
@[simp] theorem State.dropWrite_answers : (s.dropWrite).answers = s.answers := rfl
@[simp] theorem State.dropWrite_fresh : (s.dropWrite).fresh = s.fresh := rfl

/-! ### `State.resetEngine` -/

@[simp] theorem State.resetEngine_irqEn : (s.resetEngine).irqEn = false := rfl
@[simp] theorem State.resetEngine_emode : (s.resetEngine).emode = false := rfl
@[simp] theorem State.resetEngine_done : (s.resetEngine).done = false := rfl
@[simp] theorem State.resetEngine_werr : (s.resetEngine).werr = false := rfl
@[simp] theorem State.resetEngine_errcode : (s.resetEngine).errcode = 0 := rfl
@[simp] theorem State.resetEngine_lastop : (s.resetEngine).lastop = 0 := rfl
@[simp] theorem State.resetEngine_len : (s.resetEngine).len = 0 := rfl
@[simp] theorem State.resetEngine_kbits : (s.resetEngine).kbits = 0 := rfl
@[simp] theorem State.resetEngine_mem : (s.resetEngine).mem = [] := rfl
@[simp] theorem State.resetEngine_phase : (s.resetEngine).phase = .idle := rfl
@[simp] theorem State.resetEngine_replies : (s.resetEngine).replies = [] := rfl
@[simp] theorem State.resetEngine_config : (s.resetEngine).config = s.config := rfl
@[simp] theorem State.resetEngine_program : (s.resetEngine).program = s.program := rfl
@[simp] theorem State.resetEngine_reads : (s.resetEngine).reads = s.reads := rfl
@[simp] theorem State.resetEngine_turns : (s.resetEngine).turns = s.turns := rfl
@[simp] theorem State.resetEngine_patience : (s.resetEngine).patience = s.patience := rfl
@[simp] theorem State.resetEngine_answers : (s.resetEngine).answers = s.answers := rfl
@[simp] theorem State.resetEngine_fresh : (s.resetEngine).fresh = s.fresh := rfl

/-! ### `State.setLen` -/

@[simp] theorem State.setLen_irqEn (L : BitVec 16) : (s.setLen L).irqEn = s.irqEn := rfl
@[simp] theorem State.setLen_emode (L : BitVec 16) : (s.setLen L).emode = s.emode := rfl
@[simp] theorem State.setLen_done (L : BitVec 16) : (s.setLen L).done = s.done := rfl
@[simp] theorem State.setLen_werr (L : BitVec 16) : (s.setLen L).werr = s.werr := rfl
@[simp] theorem State.setLen_errcode (L : BitVec 16) : (s.setLen L).errcode = s.errcode := rfl
@[simp] theorem State.setLen_lastop (L : BitVec 16) : (s.setLen L).lastop = s.lastop := rfl
@[simp] theorem State.setLen_len (L : BitVec 16) : (s.setLen L).len = L := rfl
@[simp] theorem State.setLen_kbits (L : BitVec 16) : (s.setLen L).kbits = s.kbits := rfl
@[simp] theorem State.setLen_mem (L : BitVec 16) : (s.setLen L).mem = s.mem := rfl
@[simp] theorem State.setLen_phase (L : BitVec 16) : (s.setLen L).phase = s.phase := rfl
@[simp] theorem State.setLen_replies (L : BitVec 16) : (s.setLen L).replies = s.replies := rfl
@[simp] theorem State.setLen_config (L : BitVec 16) : (s.setLen L).config = s.config := rfl
@[simp] theorem State.setLen_program (L : BitVec 16) : (s.setLen L).program = s.program := rfl
@[simp] theorem State.setLen_reads (L : BitVec 16) : (s.setLen L).reads = s.reads := rfl
@[simp] theorem State.setLen_turns (L : BitVec 16) : (s.setLen L).turns = s.turns := rfl
@[simp] theorem State.setLen_patience (L : BitVec 16) : (s.setLen L).patience = s.patience := rfl
@[simp] theorem State.setLen_answers (L : BitVec 16) : (s.setLen L).answers = s.answers := rfl
@[simp] theorem State.setLen_fresh (L : BitVec 16) : (s.setLen L).fresh = s.fresh := rfl

/-! ### `State.clearReplies` -/

@[simp] theorem State.clearReplies_irqEn : (s.clearReplies).irqEn = s.irqEn := rfl
@[simp] theorem State.clearReplies_emode : (s.clearReplies).emode = s.emode := rfl
@[simp] theorem State.clearReplies_done : (s.clearReplies).done = s.done := rfl
@[simp] theorem State.clearReplies_werr : (s.clearReplies).werr = s.werr := rfl
@[simp] theorem State.clearReplies_errcode : (s.clearReplies).errcode = s.errcode := rfl
@[simp] theorem State.clearReplies_lastop : (s.clearReplies).lastop = s.lastop := rfl
@[simp] theorem State.clearReplies_len : (s.clearReplies).len = s.len := rfl
@[simp] theorem State.clearReplies_kbits : (s.clearReplies).kbits = s.kbits := rfl
@[simp] theorem State.clearReplies_mem : (s.clearReplies).mem = s.mem := rfl
@[simp] theorem State.clearReplies_phase : (s.clearReplies).phase = s.phase := rfl
@[simp] theorem State.clearReplies_replies : (s.clearReplies).replies = [] := rfl
@[simp] theorem State.clearReplies_config : (s.clearReplies).config = s.config := rfl
@[simp] theorem State.clearReplies_program : (s.clearReplies).program = s.program := rfl
@[simp] theorem State.clearReplies_reads : (s.clearReplies).reads = s.reads := rfl
@[simp] theorem State.clearReplies_turns : (s.clearReplies).turns = s.turns := rfl
@[simp] theorem State.clearReplies_patience : (s.clearReplies).patience = s.patience := rfl
@[simp] theorem State.clearReplies_answers : (s.clearReplies).answers = s.answers := rfl
@[simp] theorem State.clearReplies_fresh : (s.clearReplies).fresh = s.fresh := rfl

/-! ### `State.writeStatus` -/

@[simp] theorem State.writeStatus_irqEn (w : Word) : (s.writeStatus w).irqEn = s.irqEn := rfl
@[simp] theorem State.writeStatus_emode (w : Word) : (s.writeStatus w).emode = s.emode := rfl
@[simp] theorem State.writeStatus_done (w : Word) : (s.writeStatus w).done = (s.done && !w.getLsbD 1) := rfl
@[simp] theorem State.writeStatus_werr (w : Word) : (s.writeStatus w).werr = (s.werr && !w.getLsbD 2) := rfl
@[simp] theorem State.writeStatus_errcode (w : Word) : (s.writeStatus w).errcode = s.errcode := rfl
@[simp] theorem State.writeStatus_lastop (w : Word) : (s.writeStatus w).lastop = s.lastop := rfl
@[simp] theorem State.writeStatus_len (w : Word) : (s.writeStatus w).len = s.len := rfl
@[simp] theorem State.writeStatus_kbits (w : Word) : (s.writeStatus w).kbits = s.kbits := rfl
@[simp] theorem State.writeStatus_mem (w : Word) : (s.writeStatus w).mem = s.mem := rfl
@[simp] theorem State.writeStatus_phase (w : Word) : (s.writeStatus w).phase = s.phase := rfl
@[simp] theorem State.writeStatus_replies (w : Word) : (s.writeStatus w).replies = s.replies := rfl
@[simp] theorem State.writeStatus_config (w : Word) : (s.writeStatus w).config = s.config := rfl
@[simp] theorem State.writeStatus_program (w : Word) : (s.writeStatus w).program = s.program := rfl
@[simp] theorem State.writeStatus_reads (w : Word) : (s.writeStatus w).reads = s.reads := rfl
@[simp] theorem State.writeStatus_turns (w : Word) : (s.writeStatus w).turns = s.turns := rfl
@[simp] theorem State.writeStatus_patience (w : Word) : (s.writeStatus w).patience = s.patience := rfl
@[simp] theorem State.writeStatus_answers (w : Word) : (s.writeStatus w).answers = s.answers := rfl
@[simp] theorem State.writeStatus_fresh (w : Word) : (s.writeStatus w).fresh = s.fresh := rfl

/-! ### `State.writeCtrl` -/

@[simp] theorem State.writeCtrl_irqEn (w : Word) : (s.writeCtrl w).irqEn = w.getLsbD 0 := rfl
@[simp] theorem State.writeCtrl_emode (w : Word) :
    (s.writeCtrl w).emode = if s.config.hasKeygen then w.getLsbD 1 else s.emode := rfl
@[simp] theorem State.writeCtrl_done (w : Word) : (s.writeCtrl w).done = s.done := rfl
@[simp] theorem State.writeCtrl_werr (w : Word) : (s.writeCtrl w).werr = s.werr := rfl
@[simp] theorem State.writeCtrl_errcode (w : Word) : (s.writeCtrl w).errcode = s.errcode := rfl
@[simp] theorem State.writeCtrl_lastop (w : Word) : (s.writeCtrl w).lastop = s.lastop := rfl
@[simp] theorem State.writeCtrl_len (w : Word) : (s.writeCtrl w).len = s.len := rfl
@[simp] theorem State.writeCtrl_kbits (w : Word) : (s.writeCtrl w).kbits = s.kbits := rfl
@[simp] theorem State.writeCtrl_mem (w : Word) : (s.writeCtrl w).mem = s.mem := rfl
@[simp] theorem State.writeCtrl_phase (w : Word) : (s.writeCtrl w).phase = s.phase := rfl
@[simp] theorem State.writeCtrl_replies (w : Word) : (s.writeCtrl w).replies = s.replies := rfl
@[simp] theorem State.writeCtrl_config (w : Word) : (s.writeCtrl w).config = s.config := rfl
@[simp] theorem State.writeCtrl_program (w : Word) : (s.writeCtrl w).program = s.program := rfl
@[simp] theorem State.writeCtrl_reads (w : Word) : (s.writeCtrl w).reads = s.reads := rfl
@[simp] theorem State.writeCtrl_turns (w : Word) : (s.writeCtrl w).turns = s.turns := rfl
@[simp] theorem State.writeCtrl_patience (w : Word) : (s.writeCtrl w).patience = s.patience := rfl
@[simp] theorem State.writeCtrl_answers (w : Word) : (s.writeCtrl w).answers = s.answers := rfl
@[simp] theorem State.writeCtrl_fresh (w : Word) : (s.writeCtrl w).fresh = s.fresh := rfl

/-! ### `State.writeLen` -/

@[simp] theorem State.writeLen_irqEn (w : Word) : (s.writeLen w).irqEn = s.irqEn := rfl
@[simp] theorem State.writeLen_emode (w : Word) : (s.writeLen w).emode = s.emode := rfl
@[simp] theorem State.writeLen_done (w : Word) : (s.writeLen w).done = s.done := rfl
@[simp] theorem State.writeLen_werr (w : Word) : (s.writeLen w).werr = s.werr := rfl
@[simp] theorem State.writeLen_errcode (w : Word) : (s.writeLen w).errcode = s.errcode := rfl
@[simp] theorem State.writeLen_lastop (w : Word) : (s.writeLen w).lastop = s.lastop := rfl
@[simp] theorem State.writeLen_len (w : Word) : (s.writeLen w).len = w.extractLsb' 0 16 := rfl
@[simp] theorem State.writeLen_kbits (w : Word) : (s.writeLen w).kbits = s.kbits := rfl
@[simp] theorem State.writeLen_mem (w : Word) : (s.writeLen w).mem = s.mem := rfl
@[simp] theorem State.writeLen_phase (w : Word) : (s.writeLen w).phase = s.phase := rfl
@[simp] theorem State.writeLen_replies (w : Word) : (s.writeLen w).replies = s.replies := rfl
@[simp] theorem State.writeLen_config (w : Word) : (s.writeLen w).config = s.config := rfl
@[simp] theorem State.writeLen_program (w : Word) : (s.writeLen w).program = s.program := rfl
@[simp] theorem State.writeLen_reads (w : Word) : (s.writeLen w).reads = s.reads := rfl
@[simp] theorem State.writeLen_turns (w : Word) : (s.writeLen w).turns = s.turns := rfl
@[simp] theorem State.writeLen_patience (w : Word) : (s.writeLen w).patience = s.patience := rfl
@[simp] theorem State.writeLen_answers (w : Word) : (s.writeLen w).answers = s.answers := rfl
@[simp] theorem State.writeLen_fresh (w : Word) : (s.writeLen w).fresh = s.fresh := rfl

/-! ### `State.writeKbits` -/

@[simp] theorem State.writeKbits_irqEn (w : Word) : (s.writeKbits w).irqEn = s.irqEn := rfl
@[simp] theorem State.writeKbits_emode (w : Word) : (s.writeKbits w).emode = s.emode := rfl
@[simp] theorem State.writeKbits_done (w : Word) : (s.writeKbits w).done = s.done := rfl
@[simp] theorem State.writeKbits_werr (w : Word) : (s.writeKbits w).werr = s.werr := rfl
@[simp] theorem State.writeKbits_errcode (w : Word) : (s.writeKbits w).errcode = s.errcode := rfl
@[simp] theorem State.writeKbits_lastop (w : Word) : (s.writeKbits w).lastop = s.lastop := rfl
@[simp] theorem State.writeKbits_len (w : Word) : (s.writeKbits w).len = s.len := rfl
@[simp] theorem State.writeKbits_kbits (w : Word) :
    (s.writeKbits w).kbits = if s.config.hasKeygen then w.extractLsb' 0 16 else s.kbits := rfl
@[simp] theorem State.writeKbits_mem (w : Word) : (s.writeKbits w).mem = s.mem := rfl
@[simp] theorem State.writeKbits_phase (w : Word) : (s.writeKbits w).phase = s.phase := rfl
@[simp] theorem State.writeKbits_replies (w : Word) : (s.writeKbits w).replies = s.replies := rfl
@[simp] theorem State.writeKbits_config (w : Word) : (s.writeKbits w).config = s.config := rfl
@[simp] theorem State.writeKbits_program (w : Word) : (s.writeKbits w).program = s.program := rfl
@[simp] theorem State.writeKbits_reads (w : Word) : (s.writeKbits w).reads = s.reads := rfl
@[simp] theorem State.writeKbits_turns (w : Word) : (s.writeKbits w).turns = s.turns := rfl
@[simp] theorem State.writeKbits_patience (w : Word) : (s.writeKbits w).patience = s.patience := rfl
@[simp] theorem State.writeKbits_answers (w : Word) : (s.writeKbits w).answers = s.answers := rfl
@[simp] theorem State.writeKbits_fresh (w : Word) : (s.writeKbits w).fresh = s.fresh := rfl

/-! ### Starts: every field but `STATUS` and the phase is kept (R100) -/

theorem State.afterValidation_ok (op : Op) : s.afterValidation op .ok = { s with phase := .busy op } := rfl

theorem State.afterValidation_error (op : Op) (code : Code) (h : code ≠ .ok) :
    s.afterValidation op code = s.complete code := if_neg h

@[simp] theorem State.afterValidation_irqEn (op : Op) (code : Code) :
    (s.afterValidation op code).irqEn = s.irqEn := by
  unfold State.afterValidation; split <;> rfl
@[simp] theorem State.afterValidation_emode (op : Op) (code : Code) :
    (s.afterValidation op code).emode = s.emode := by
  unfold State.afterValidation; split <;> rfl
@[simp] theorem State.afterValidation_werr (op : Op) (code : Code) :
    (s.afterValidation op code).werr = s.werr := by
  unfold State.afterValidation; split <;> rfl
@[simp] theorem State.afterValidation_lastop (op : Op) (code : Code) :
    (s.afterValidation op code).lastop = s.lastop := by
  unfold State.afterValidation; split <;> rfl
@[simp] theorem State.afterValidation_len (op : Op) (code : Code) :
    (s.afterValidation op code).len = s.len := by
  unfold State.afterValidation; split <;> rfl
@[simp] theorem State.afterValidation_kbits (op : Op) (code : Code) :
    (s.afterValidation op code).kbits = s.kbits := by
  unfold State.afterValidation; split <;> rfl
@[simp] theorem State.afterValidation_mem (op : Op) (code : Code) :
    (s.afterValidation op code).mem = s.mem := by
  unfold State.afterValidation; split <;> rfl
@[simp] theorem State.afterValidation_replies (op : Op) (code : Code) :
    (s.afterValidation op code).replies = s.replies := by
  unfold State.afterValidation; split <;> rfl
@[simp] theorem State.afterValidation_config (op : Op) (code : Code) :
    (s.afterValidation op code).config = s.config := by
  unfold State.afterValidation; split <;> rfl
@[simp] theorem State.afterValidation_program (op : Op) (code : Code) :
    (s.afterValidation op code).program = s.program := by
  unfold State.afterValidation; split <;> rfl
@[simp] theorem State.afterValidation_reads (op : Op) (code : Code) :
    (s.afterValidation op code).reads = s.reads := by
  unfold State.afterValidation; split <;> rfl
@[simp] theorem State.afterValidation_turns (op : Op) (code : Code) :
    (s.afterValidation op code).turns = s.turns := by
  unfold State.afterValidation; split <;> rfl
@[simp] theorem State.afterValidation_patience (op : Op) (code : Code) :
    (s.afterValidation op code).patience = s.patience := by
  unfold State.afterValidation; split <;> rfl
@[simp] theorem State.afterValidation_answers (op : Op) (code : Code) :
    (s.afterValidation op code).answers = s.answers := by
  unfold State.afterValidation; split <;> rfl
@[simp] theorem State.afterValidation_fresh (op : Op) (code : Code) :
    (s.afterValidation op code).fresh = s.fresh := by
  unfold State.afterValidation; split <;> rfl
@[simp] theorem State.start_irqEn (op : Op) (opcode : BitVec 4) (code : Code) :
    (s.start op opcode code).irqEn = s.irqEn := by simp [State.start]
@[simp] theorem State.start_emode (op : Op) (opcode : BitVec 4) (code : Code) :
    (s.start op opcode code).emode = s.emode := by simp [State.start]
@[simp] theorem State.start_werr (op : Op) (opcode : BitVec 4) (code : Code) :
    (s.start op opcode code).werr = s.werr := by simp [State.start]
@[simp] theorem State.start_lastop (op : Op) (opcode : BitVec 4) (code : Code) :
    (s.start op opcode code).lastop = opcode := by simp [State.start]
@[simp] theorem State.start_len (op : Op) (opcode : BitVec 4) (code : Code) :
    (s.start op opcode code).len = s.len := by simp [State.start]
@[simp] theorem State.start_kbits (op : Op) (opcode : BitVec 4) (code : Code) :
    (s.start op opcode code).kbits = s.kbits := by simp [State.start]
@[simp] theorem State.start_mem (op : Op) (opcode : BitVec 4) (code : Code) :
    (s.start op opcode code).mem = s.mem := by simp [State.start]
@[simp] theorem State.start_replies (op : Op) (opcode : BitVec 4) (code : Code) :
    (s.start op opcode code).replies = s.replies := by simp [State.start]
@[simp] theorem State.start_config (op : Op) (opcode : BitVec 4) (code : Code) :
    (s.start op opcode code).config = s.config := by simp [State.start]
@[simp] theorem State.start_program (op : Op) (opcode : BitVec 4) (code : Code) :
    (s.start op opcode code).program = s.program := by simp [State.start]
@[simp] theorem State.start_reads (op : Op) (opcode : BitVec 4) (code : Code) :
    (s.start op opcode code).reads = s.reads := by simp [State.start]
@[simp] theorem State.start_turns (op : Op) (opcode : BitVec 4) (code : Code) :
    (s.start op opcode code).turns = s.turns := by simp [State.start]
@[simp] theorem State.start_patience (op : Op) (opcode : BitVec 4) (code : Code) :
    (s.start op opcode code).patience = s.patience := by simp [State.start]
@[simp] theorem State.start_answers (op : Op) (opcode : BitVec 4) (code : Code) :
    (s.start op opcode code).answers = s.answers := by simp [State.start]
@[simp] theorem State.start_fresh (op : Op) (opcode : BitVec 4) (code : Code) :
    (s.start op opcode code).fresh = s.fresh := by simp [State.start]

/-- A start that passes its validation (R100, R102). -/
theorem State.start_ok (op : Op) (opcode : BitVec 4) :
    s.start op opcode .ok = { s with done := false, errcode := 0, lastop := opcode, phase := .busy op } := rfl

/-- A start that fails its validation completes with the code (R101, R104). -/
theorem State.start_error (op : Op) (opcode : BitVec 4) (code : Code) (h : code ≠ .ok) :
    s.start op opcode code
      = { s with done := true, errcode := code.bits, lastop := opcode, phase := .idle } := by
  rw [State.start, State.afterValidation_error _ _ _ h]; rfl

/-! ### Window updates under a condition -/

@[simp] theorem State.clearPresent_irqEn (W : Window) : (s.clearPresent W).irqEn = s.irqEn := by
  unfold State.clearPresent; split <;> rfl
@[simp] theorem State.clearPresent_emode (W : Window) : (s.clearPresent W).emode = s.emode := by
  unfold State.clearPresent; split <;> rfl
@[simp] theorem State.clearPresent_done (W : Window) : (s.clearPresent W).done = s.done := by
  unfold State.clearPresent; split <;> rfl
@[simp] theorem State.clearPresent_werr (W : Window) : (s.clearPresent W).werr = s.werr := by
  unfold State.clearPresent; split <;> rfl
@[simp] theorem State.clearPresent_errcode (W : Window) : (s.clearPresent W).errcode = s.errcode := by
  unfold State.clearPresent; split <;> rfl
@[simp] theorem State.clearPresent_lastop (W : Window) : (s.clearPresent W).lastop = s.lastop := by
  unfold State.clearPresent; split <;> rfl
@[simp] theorem State.clearPresent_len (W : Window) : (s.clearPresent W).len = s.len := by
  unfold State.clearPresent; split <;> rfl
@[simp] theorem State.clearPresent_kbits (W : Window) : (s.clearPresent W).kbits = s.kbits := by
  unfold State.clearPresent; split <;> rfl
@[simp] theorem State.clearPresent_phase (W : Window) : (s.clearPresent W).phase = s.phase := by
  unfold State.clearPresent; split <;> rfl
@[simp] theorem State.clearPresent_replies (W : Window) : (s.clearPresent W).replies = s.replies := by
  unfold State.clearPresent; split <;> rfl
@[simp] theorem State.clearPresent_config (W : Window) : (s.clearPresent W).config = s.config := by
  unfold State.clearPresent; split <;> rfl
@[simp] theorem State.clearPresent_program (W : Window) : (s.clearPresent W).program = s.program := by
  unfold State.clearPresent; split <;> rfl
@[simp] theorem State.clearPresent_reads (W : Window) : (s.clearPresent W).reads = s.reads := by
  unfold State.clearPresent; split <;> rfl
@[simp] theorem State.clearPresent_turns (W : Window) : (s.clearPresent W).turns = s.turns := by
  unfold State.clearPresent; split <;> rfl
@[simp] theorem State.clearPresent_patience (W : Window) : (s.clearPresent W).patience = s.patience := by
  unfold State.clearPresent; split <;> rfl
@[simp] theorem State.clearPresent_answers (W : Window) : (s.clearPresent W).answers = s.answers := by
  unfold State.clearPresent; split <;> rfl
@[simp] theorem State.clearPresent_fresh (W : Window) : (s.clearPresent W).fresh = s.fresh := by
  unfold State.clearPresent; split <;> rfl
@[simp] theorem State.writeWindow_irqEn (W : Window) (o : Nat) (w : Word) :
    (s.writeWindow W o w).irqEn = s.irqEn := by
  unfold State.writeWindow; split <;> rfl
@[simp] theorem State.writeWindow_emode (W : Window) (o : Nat) (w : Word) :
    (s.writeWindow W o w).emode = s.emode := by
  unfold State.writeWindow; split <;> rfl
@[simp] theorem State.writeWindow_done (W : Window) (o : Nat) (w : Word) :
    (s.writeWindow W o w).done = s.done := by
  unfold State.writeWindow; split <;> rfl
@[simp] theorem State.writeWindow_werr (W : Window) (o : Nat) (w : Word) :
    (s.writeWindow W o w).werr = s.werr := by
  unfold State.writeWindow; split <;> rfl
@[simp] theorem State.writeWindow_errcode (W : Window) (o : Nat) (w : Word) :
    (s.writeWindow W o w).errcode = s.errcode := by
  unfold State.writeWindow; split <;> rfl
@[simp] theorem State.writeWindow_lastop (W : Window) (o : Nat) (w : Word) :
    (s.writeWindow W o w).lastop = s.lastop := by
  unfold State.writeWindow; split <;> rfl
@[simp] theorem State.writeWindow_len (W : Window) (o : Nat) (w : Word) :
    (s.writeWindow W o w).len = s.len := by
  unfold State.writeWindow; split <;> rfl
@[simp] theorem State.writeWindow_kbits (W : Window) (o : Nat) (w : Word) :
    (s.writeWindow W o w).kbits = s.kbits := by
  unfold State.writeWindow; split <;> rfl
@[simp] theorem State.writeWindow_phase (W : Window) (o : Nat) (w : Word) :
    (s.writeWindow W o w).phase = s.phase := by
  unfold State.writeWindow; split <;> rfl
@[simp] theorem State.writeWindow_replies (W : Window) (o : Nat) (w : Word) :
    (s.writeWindow W o w).replies = s.replies := by
  unfold State.writeWindow; split <;> rfl
@[simp] theorem State.writeWindow_config (W : Window) (o : Nat) (w : Word) :
    (s.writeWindow W o w).config = s.config := by
  unfold State.writeWindow; split <;> rfl
@[simp] theorem State.writeWindow_program (W : Window) (o : Nat) (w : Word) :
    (s.writeWindow W o w).program = s.program := by
  unfold State.writeWindow; split <;> rfl
@[simp] theorem State.writeWindow_reads (W : Window) (o : Nat) (w : Word) :
    (s.writeWindow W o w).reads = s.reads := by
  unfold State.writeWindow; split <;> rfl
@[simp] theorem State.writeWindow_turns (W : Window) (o : Nat) (w : Word) :
    (s.writeWindow W o w).turns = s.turns := by
  unfold State.writeWindow; split <;> rfl
@[simp] theorem State.writeWindow_patience (W : Window) (o : Nat) (w : Word) :
    (s.writeWindow W o w).patience = s.patience := by
  unfold State.writeWindow; split <;> rfl
@[simp] theorem State.writeWindow_answers (W : Window) (o : Nat) (w : Word) :
    (s.writeWindow W o w).answers = s.answers := by
  unfold State.writeWindow; split <;> rfl
@[simp] theorem State.writeWindow_fresh (W : Window) (o : Nat) (w : Word) :
    (s.writeWindow W o w).fresh = s.fresh := by
  unfold State.writeWindow; split <;> rfl

/-! ### `State.putKey` -/

@[simp] theorem State.putKey_irqEn (p q e : Nat) : (s.putKey p q e).irqEn = s.irqEn := by simp [State.putKey]
@[simp] theorem State.putKey_emode (p q e : Nat) : (s.putKey p q e).emode = s.emode := by simp [State.putKey]
@[simp] theorem State.putKey_done (p q e : Nat) : (s.putKey p q e).done = s.done := by simp [State.putKey]
@[simp] theorem State.putKey_werr (p q e : Nat) : (s.putKey p q e).werr = s.werr := by simp [State.putKey]
@[simp] theorem State.putKey_errcode (p q e : Nat) : (s.putKey p q e).errcode = s.errcode := by simp [State.putKey]
@[simp] theorem State.putKey_lastop (p q e : Nat) : (s.putKey p q e).lastop = s.lastop := by simp [State.putKey]
@[simp] theorem State.putKey_len (p q e : Nat) :
    (s.putKey p q e).len = BitVec.ofNat 16 (keyLen s.keyBits) := by simp [State.putKey]
@[simp] theorem State.putKey_kbits (p q e : Nat) : (s.putKey p q e).kbits = s.kbits := by simp [State.putKey]
@[simp] theorem State.putKey_phase (p q e : Nat) : (s.putKey p q e).phase = s.phase := by simp [State.putKey]
@[simp] theorem State.putKey_replies (p q e : Nat) : (s.putKey p q e).replies = s.replies := by simp [State.putKey]
@[simp] theorem State.putKey_config (p q e : Nat) : (s.putKey p q e).config = s.config := by simp [State.putKey]
@[simp] theorem State.putKey_program (p q e : Nat) : (s.putKey p q e).program = s.program := by simp [State.putKey]
@[simp] theorem State.putKey_reads (p q e : Nat) : (s.putKey p q e).reads = s.reads := by simp [State.putKey]
@[simp] theorem State.putKey_turns (p q e : Nat) : (s.putKey p q e).turns = s.turns := by simp [State.putKey]
@[simp] theorem State.putKey_patience (p q e : Nat) : (s.putKey p q e).patience = s.patience := by simp [State.putKey]
@[simp] theorem State.putKey_answers (p q e : Nat) : (s.putKey p q e).answers = s.answers := by simp [State.putKey]
@[simp] theorem State.putKey_fresh (p q e : Nat) : (s.putKey p q e).fresh = s.fresh := by simp [State.putKey]

end Sys2Proof.Machine
end

