-- ==== Sys2Proof/Laws/Operands.lean ====
section
/-! SUPPORT. The laws of operands and windows: big-endian values and their bytes (R11), what a window's bytes are after
each window update (R30, R54, R170), and that windows are separate storage (R28). -/

namespace Sys2Proof.Machine

theorem maxlen_le (c : Config) : c.maxlen ≤ 4096 := by
  have := c.winWords.isLt
  unfold Config.maxlen
  omega

theorem maxlen_pos (c : Config) : 4 ≤ c.maxlen := by unfold Config.maxlen; omega

theorem maxlen_mod_four (c : Config) : c.maxlen % 4 = 0 := by unfold Config.maxlen; omega

/-- The windows are separate storage (R28): their 4 KiB ranges do not meet. -/
theorem base_add_inj {W V : Window} {i j : Nat} (hi : i < 4096) (hj : j < 4096) :
    W.base + i = V.base + j ↔ W = V ∧ i = j := by
  cases W <;> cases V <;> simp [Window.base] <;> omega

/-! ### Big-endian values (R11, R29) -/

theorem beValue_congr {f g : Nat → Byte} {L : Nat} (h : ∀ i, i < L → f i = g i) : beValue f L = beValue g L := by
  induction L with
  | zero => rfl
  | succ L ih => rw [beValue, beValue, ih fun i hi => h i (by omega), h L (by omega)]

theorem beValue_lt (f : Nat → Byte) (L : Nat) : beValue f L < 256 ^ L := by
  induction L with
  | zero => simp [beValue]
  | succ L ih =>
    have := (f L).isLt
    rw [beValue, pow_succ]
    omega

theorem beByte_toNat (L v i : Nat) : (beByte L v i).toNat = v / 256 ^ (L - 1 - i) % 256 := by
  simp [beByte]

theorem beByte_succ (L v i : Nat) (h : i < L) : beByte (L + 1) v i = beByte L (v / 256) i := by
  apply BitVec.eq_of_toNat_eq
  rw [beByte_toNat, beByte_toNat, Nat.div_div_eq_div_mul]
  have : 256 ^ (L + 1 - 1 - i) = 256 * 256 ^ (L - 1 - i) := by
    rw [← pow_succ']
    congr 1
    omega
  rw [this]

/-- The bytes of `BE_L(v)` have the value `v` (R11). -/
theorem beValue_beByte (L v : Nat) (h : v < 256 ^ L) : beValue (beByte L v) L = v := by
  induction L generalizing v with
  | zero => simp at h; simp [beValue, h]
  | succ L ih =>
    rw [beValue, beValue_congr fun i hi => beByte_succ L v i hi, ih (v / 256), beByte_toNat]
    · simp; omega
    · rw [pow_succ] at h
      omega

/-- An operand value fits its width (R9). -/
theorem val_lt (s : State) (W : Window) (L : Nat) : s.val W L < 256 ^ L := beValue_lt _ _

/-! ### Window updates, byte by byte -/

theorem win_setWin (s : State) (W V : Window) (o n i : Nat) (f : Nat → Byte) (hm : s.mem.wf = true)
    (hn : o + n ≤ 4096) (hi : i < 4096) :
    (s.setWin W o f n).win V i = if V = W ∧ o ≤ i ∧ i < o + n then f (i - o) else s.win V i := by
  unfold State.win
  rw [State.setWin_mem, Memory.read_fill _ _ _ _ _ hm]
  by_cases h : V = W ∧ o ≤ i ∧ i < o + n
  · obtain ⟨rfl, h1, h2⟩ := h
    rw [if_pos (by omega), if_pos ⟨rfl, h1, h2⟩]
    congr 1
    omega
  · rw [if_neg h, if_neg]
    rintro ⟨h1, h2⟩
    obtain ⟨hVW, hij⟩ :=
      (base_add_inj (W := V) (V := W) (i := i) (j := V.base + i - W.base) hi (by omega)).1 (by omega)
    subst hVW
    exact h ⟨rfl, by omega, by omega⟩

theorem win_clearWin (s : State) (W V : Window) (i : Nat) (hm : s.mem.wf = true) (hi : i < 4096) :
    (s.clearWin W).win V i = if V = W ∧ i < s.config.maxlen then 0 else s.win V i := by
  have hl := maxlen_le s.config
  unfold State.win
  rw [State.clearWin_mem, Memory.read_clear _ _ _ _ hm]
  by_cases h : V = W ∧ i < s.config.maxlen
  · obtain ⟨rfl, h1⟩ := h
    rw [if_pos (by omega), if_pos ⟨rfl, h1⟩]
  · rw [if_neg h, if_neg]
    rintro ⟨h1, h2⟩
    obtain ⟨hVW, hij⟩ :=
      (base_add_inj (W := V) (V := W) (i := i) (j := V.base + i - W.base) hi (by omega)).1 (by omega)
    subst hVW
    exact h ⟨rfl, by omega⟩

/-- The bytes of every window after an output write (R30). -/
theorem win_put (s : State) (W V : Window) (L v i : Nat) (hm : s.mem.wf = true) (hL : L ≤ s.config.maxlen)
    (hi : i < 4096) :
    (s.put W L v).win V i
      = if V = W ∧ i < L then beByte L v i else if V = W ∧ i < s.config.maxlen then 0 else s.win V i := by
  have hl := maxlen_le s.config
  unfold State.put
  rw [Nat.min_eq_left hL, win_setWin _ _ _ _ _ _ _ (by simpa using Memory.wf_clear _ _ _ hm) (by omega) hi,
    win_clearWin _ _ _ _ hm hi]
  by_cases h : V = W ∧ i < L
  · rw [if_pos h, if_pos ⟨h.1, by omega, by omega⟩]; rfl
  · rw [if_neg h, if_neg (fun h' => h ⟨h'.1, by omega⟩)]

/-- A byte outside the window written is kept by an output write (R30). -/
theorem read_put_outside (s : State) (W : Window) (L v a : Nat) (hm : s.mem.wf = true)
    (ha : a < W.base ∨ W.base + s.config.maxlen ≤ a) : (s.put W L v).mem.read a = s.mem.read a := by
  have := Nat.min_le_right L s.config.maxlen
  rw [State.put_mem, Memory.read_fill _ _ _ _ _ (Memory.wf_clear _ _ _ hm), Memory.read_clear _ _ _ _ hm,
    if_neg (by omega), if_neg (by omega)]

/-- A byte outside the window cleared is kept (R170). -/
theorem read_clearWin_outside (s : State) (W : Window) (a : Nat) (hm : s.mem.wf = true)
    (ha : a < W.base ∨ W.base + s.config.maxlen ≤ a) : (s.clearWin W).mem.read a = s.mem.read a := by
  rw [State.clearWin_mem, Memory.read_clear _ _ _ _ hm, if_neg (by omega)]

/-! ### The canonical form is kept -/

theorem wf_setWin (s : State) (W : Window) (o n : Nat) (f : Nat → Byte) (hm : s.mem.wf = true) :
    (s.setWin W o f n).mem.wf = true := Memory.wf_fill _ _ _ _ hm

theorem wf_clearWin (s : State) (W : Window) (hm : s.mem.wf = true) : (s.clearWin W).mem.wf = true :=
  Memory.wf_clear _ _ _ hm

theorem wf_put (s : State) (W : Window) (L v : Nat) (hm : s.mem.wf = true) : (s.put W L v).mem.wf = true :=
  Memory.wf_fill _ _ _ _ (Memory.wf_clear _ _ _ hm)

theorem wf_clearPresent (s : State) (W : Window) (hm : s.mem.wf = true) : (s.clearPresent W).mem.wf = true := by
  unfold State.clearPresent
  split
  · exact wf_clearWin s W hm
  · exact hm

theorem wf_putKey (s : State) (p q e : Nat) (hm : s.mem.wf = true) : (s.putKey p q e).mem.wf = true := by
  unfold State.putKey
  rw [State.setLen_mem]
  exact wf_put _ _ _ _ (wf_put _ _ _ _ (wf_put _ _ _ _ hm))

theorem wf_writeWindow (s : State) (W : Window) (o : Nat) (w : Word) (hm : s.mem.wf = true) :
    (s.writeWindow W o w).mem.wf = true := by
  unfold State.writeWindow
  split
  · exact wf_setWin _ _ _ _ _ hm
  · exact hm

/-! ### Words of a window (R54) -/

/-- The four lanes of a word make the word. -/
theorem laneByte_append (w : Word) : laneByte w 0 ++ laneByte w 1 ++ laneByte w 2 ++ laneByte w 3 = w := by
  unfold laneByte
  ext i hi
  simp only [BitVec.getElem_append, BitVec.getElem_extractLsb']
  rw [← BitVec.getLsbD_eq_getElem]
  have key : ∀ j, j = i → w.getLsbD j = w.getLsbD i := fun j hj => by rw [hj]
  by_cases h1 : i < 8
  · simp only [h1, dite_true]
    exact key _ (by omega)
  · by_cases h2 : i < 16
    · simp only [h1, dite_false, show i - 8 < 8 by omega, dite_true]
      exact key _ (by omega)
    · by_cases h3 : i < 24
      · simp only [h1, dite_false, show ¬ i - 8 < 8 by omega, show i - 8 - 8 < 8 by omega, dite_true]
        exact key _ (by omega)
      · simp only [h1, dite_false, show ¬ i - 8 < 8 by omega, show ¬ i - 8 - 8 < 8 by omega]
        exact key _ (by omega)

end Sys2Proof.Machine
end

