-- ==== Sys2Proof/Laws/Search.lean ====
section
/-! SUPPORT. What the key search can do: when it waits, how it ends, and what holds of a key it finds
(R144 to R149, R156). -/

namespace Sys2Proof.Machine

/-- A drawn number is in the requested range (R143). -/
theorem answerBelow_lt {bound r : Nat} {a : RngAnswer} (hb : 0 < bound) (h : answerBelow bound a = some r) :
    r < bound := by
  cases a with
  | value v => simp only [answerBelow, Option.some.injEq] at h; rw [← h]; exact Nat.mod_lt _ hb
  | fail => simp [answerBelow] at h

/-- Every candidate is odd (R145). -/
theorem candidate_odd (b r : Nat) : candidate b r % 2 = 1 := by
  have h : (candidate b r).testBit 0 = true := by simp [candidate]
  simpa [Nat.testBit_zero] using h

/-- Every candidate has its top bit (R145). -/
theorem le_candidate (b r : Nat) : 2 ^ (b - 1) ≤ candidate b r :=
  le_trans Nat.right_le_or Nat.left_le_or

/-- Every candidate fits its bits (R145). -/
theorem candidate_lt (b r : Nat) (hb : 0 < b) (hr : r < 2 ^ b) : candidate b r < 2 ^ b := by
  have h1 : 2 ^ (b - 1) < 2 ^ b := Nat.pow_lt_pow_right (by omega) (by omega)
  exact Nat.or_lt_two_pow (Nat.or_lt_two_pow hr h1) (Nat.one_lt_two_pow (by omega))

theorem totient_pos {p q : Nat} (hp : 2 ≤ p) (hq : 2 ≤ q) : 0 < totient p q :=
  Nat.lcm_pos (by omega) (by omega)

/-- What must hold of the temporaries before a request. -/
def Goal.Ok (test : PrimeTest) (K : Nat) (emode : Bool) : Goal → Prop
  | .drawP => True
  | .drawQ p => acceptedPrime test K p
  | .drawE p q => emode = true ∧ acceptedPair test K p q

/-- The tests on a pair keep what must hold (R146). -/
theorem afterPair_cases {test : PrimeTest} {K : Nat} {emode : Bool} {p q : Nat} (hp : acceptedPrime test K p)
    (hq : acceptedPrime test K q) :
    (∃ goal, afterPair K emode p q = .more goal ∧ goal.Ok test K emode) ∨
    (afterPair K emode p q = .key p q 65537 ∧ acceptedKey test K emode p q 65537) := by
  unfold afterPair
  split
  · exact .inl ⟨_, rfl, trivial⟩
  · next hne =>
    split
    · exact .inl ⟨_, rfl, trivial⟩
    · next hbit =>
      have hpair : acceptedPair test K p q := ⟨hp, hq, hne, by simpa using hbit⟩
      split
      · next he => exact .inl ⟨_, rfl, he, hpair⟩
      · next he =>
        split
        · exact .inl ⟨_, rfl, trivial⟩
        · next hg =>
          refine .inr ⟨rfl, hpair, by simpa using hg, ?_⟩
          rw [if_neg he]

/-- One answered request leads to a further request whose temporaries are good, or to a good key. -/
theorem advance_cases {test : PrimeTest} {K : Nat} {emode : Bool} {goal : Goal} {r draw : Nat} (hK : 4 ≤ K)
    (hok : goal.Ok test K emode) (hr : r < goal.bound K) :
    (∃ goal', advance test K emode goal r draw = .more goal' ∧ goal'.Ok test K emode) ∨
    (∃ p q e, advance test K emode goal r draw = .key p q e ∧ acceptedKey test K emode p q e) := by
  have hc : ∀ r, r < 2 ^ (K / 2) → primeVerdict test (candidate (K / 2) r) draw = true →
      acceptedPrime test K (candidate (K / 2) r) := fun r hr hv =>
    ⟨candidate_odd _ _, le_candidate _ _, candidate_lt _ _ (by omega) hr, draw, hv⟩
  cases goal with
  | drawP =>
    simp only [advance]
    split
    · next hv => exact .inl ⟨_, rfl, hc r hr hv⟩
    · exact .inl ⟨_, rfl, trivial⟩
  | drawQ p =>
    simp only [advance]
    split
    · next hv =>
      rcases afterPair_cases (emode := emode) hok (hc r hr hv) with h | h
      · exact .inl h
      · exact .inr ⟨_, _, _, h⟩
    · exact .inl ⟨_, rfl, hok⟩
  | drawE p q =>
    simp only [advance]
    split
    · next hg => exact .inr ⟨p, q, r, rfl, hok.2, hg, by rw [if_pos hok.1]; exact hr⟩
    · exact .inl ⟨_, rfl, hok⟩

/-- A request's range is not empty. -/
theorem Goal.bound_pos {test : PrimeTest} {K : Nat} {emode : Bool} {goal : Goal} (hK : 4 ≤ K)
    (hok : goal.Ok test K emode) : 0 < goal.bound K := by
  have h2 : 2 ≤ 2 ^ (K / 2 - 1) := Nat.le_self_pow (by omega) 2
  cases goal with
  | drawP => exact Nat.two_pow_pos _
  | drawQ p => exact Nat.two_pow_pos _
  | drawE p q => exact totient_pos (le_trans h2 hok.2.1.2.1) (le_trans h2 hok.2.2.1.2.1)

/-- A search that finds a key finds a good one (R145 to R149). -/
theorem search_key {test : PrimeTest} {K : Nat} {emode : Bool} (hK : 4 ≤ K) {left : Nat} {goal : Goal}
    {replies : List Reply} {p q e : Nat} (hok : goal.Ok test K emode)
    (h : search test K emode left goal replies = .key p q e) : acceptedKey test K emode p q e := by
  induction left generalizing goal replies with
  | zero => simp [search] at h
  | succ left ih =>
    cases replies with
    | nil => simp [search] at h
    | cons a rest =>
      rw [search] at h
      split at h
      · simp at h
      · next r hr =>
        rcases advance_cases (draw := Config.freeDraw a.draw) hK hok (answerBelow_lt (Goal.bound_pos hK hok) hr) with
          ⟨goal', hg, hok'⟩ | ⟨p', q', e', hg, hkey⟩
        · rw [hg] at h
          exact ih hok' h
        · rw [hg] at h
          simp only [Found.key.injEq] at h
          obtain ⟨rfl, rfl, rfl⟩ := h
          exact hkey

/-- A search that waits has been given fewer answers than it has attempts (R144). -/
theorem search_waiting {test : PrimeTest} {K : Nat} {emode : Bool} {left : Nat} {goal goal' : Goal}
    {replies : List Reply} (h : search test K emode left goal replies = .waiting goal') : replies.length < left := by
  induction left generalizing goal replies with
  | zero => simp [search] at h
  | succ left ih =>
    cases replies with
    | nil => simp
    | cons a rest =>
      rw [search] at h
      split at h
      · simp at h
      · split at h
        · have := ih h
          simp only [List.length_cons]
          omega
        · simp at h

/-- A search fails only with the two codes of R144, and with the cap's only when every attempt was answered (R156). -/
theorem search_failed {test : PrimeTest} {K : Nat} {emode : Bool} {left : Nat} {goal : Goal} {replies : List Reply}
    {code : Code} (h : search test K emode left goal replies = .failed code) :
    code = .rngFailure ∨ (code = .keygenIterationCap ∧ left ≤ replies.length) := by
  induction left generalizing goal replies with
  | zero => exact .inr ⟨by simpa [search] using h.symm, Nat.zero_le _⟩
  | succ left ih =>
    cases replies with
    | nil => simp [search] at h
    | cons a rest =>
      rw [search] at h
      split at h
      · exact .inl (by simpa using h.symm)
      · split at h
        · rcases ih h with hc | ⟨hc, hl⟩
          · exact .inl hc
          · exact .inr ⟨hc, by simpa using hl⟩
        · simp at h

end Sys2Proof.Machine
end

