-- ==== Sys2Proof/Laws/Commands.lean ====
section
/-! SUPPORT. What a command can do: every command answers a next state, which is a start, a completion or a drop; and
the results of the completions as values. -/

namespace Sys2Proof.Machine

/-- What `exec` can answer: from idle a start (R100), in flight the completion step (R103), else a dropped write
(R106). -/
theorem exec_cases (i : Instr) (s : State) : ∃ t, exec i s = .next t ∧
    ((s.phase = .idle ∧ ((∃ op, i = op.instr ∧ op.present s.config = true ∧
          t = (startFrom op s).start op op.opcode (validate op s)) ∨
        ∃ opcode, t = s.startIllegal opcode)) ∨
      (∃ op, s.phase = .busy op ∧ i = op.instr ∧ t = completion op s) ∨
      (∃ op, s.phase = .busy op ∧ i ≠ op.instr ∧ t = s.dropWrite)) := by
  rcases hp : s.phase with _ | op
  · cases i with
    | modexp => exact ⟨_, by simp only [exec, execModexp, hp]; rfl, .inl ⟨rfl, .inl ⟨.modexp, rfl, rfl, rfl⟩⟩⟩
    | keygen =>
      cases hk : s.config.hasKeygen
      · exact ⟨_, by simp only [exec, execKeygen, hp, hk]; rfl, .inl ⟨rfl, .inr ⟨0x2, rfl⟩⟩⟩
      · exact ⟨_, by simp only [exec, execKeygen, hp, hk]; rfl, .inl ⟨rfl, .inl ⟨.keygen, rfl, hk, rfl⟩⟩⟩
    | zeroize => exact ⟨_, by simp only [exec, execZeroize, hp]; rfl, .inl ⟨rfl, .inl ⟨.zeroize, rfl, rfl, rfl⟩⟩⟩
    | illegal r o => exact ⟨_, by simp only [exec, execIllegal, hp], .inl ⟨rfl, .inr ⟨o, rfl⟩⟩⟩
  · cases i <;> cases op <;>
      first
      | exact ⟨_, by simp only [exec, execModexp, execKeygen, execZeroize, execIllegal, hp]; rfl,
          .inr (.inl ⟨_, rfl, rfl, rfl⟩)⟩
      | exact ⟨_, by simp only [exec, execModexp, execKeygen, execZeroize, execIllegal, hp],
          .inr (.inr ⟨_, rfl, nofun, rfl⟩)⟩

/-- The command in flight runs its completion step (R103). -/
theorem exec_inFlight (op : Op) (s : State) (hp : s.phase = .busy op) : exec op.instr s = .next (completion op s) := by
  cases op <;> simp [exec, execModexp, execKeygen, execZeroize, Op.instr, completion, hp]

theorem Code.ok_bits : Code.ok.bits = 0 := rfl

/-- Only `ok` has the number 0 (R84). -/
theorem Code.bits_eq_zero {c : Code} : c.bits = 0 ↔ c = .ok := by cases c <;> decide

theorem codeProduced_bits (c : Code) : codeProduced c.bits = true := by cases c <;> decide

/-- The operand value of the exponent fits the bits that are scanned (R29, R122). -/
theorem opK_lt (s : State) : s.opK < 2 ^ (8 * s.opLen) := by
  have := val_lt s .k s.opLen
  rwa [show (256 : Nat) = 2 ^ 8 from rfl, ← pow_mul] at this

/-- The result of MODEXP is `x^k mod n` (R122). -/
theorem modexpResult_eq (s : State) : modexpResult s = s.opX ^ s.opK % s.opN :=
  modPow_eq _ _ _ _ (opK_lt s)

theorem isBusy_iff (s : State) : s.isBusy = true ↔ ∃ op, s.phase = .busy op := by
  unfold State.isBusy
  rcases s.phase with _ | op <;> simp

theorem isBusy_eq_false_iff (s : State) : s.isBusy = false ↔ s.phase = .idle := by
  unfold State.isBusy
  rcases s.phase with _ | op <;> simp

/-- Only a KEYGEN in flight makes a request (R143). -/
theorem request_eq_none {s : State} (h : s.phase ≠ .busy .keygen) : s.request = none := by
  unfold State.request
  split <;> first | rfl | exact absurd ‹_› h

/-- The KEYGEN in flight waits exactly while its search does. -/
theorem request_keygen {s : State} (h : s.phase = .busy .keygen) {goal : Goal} :
    s.request = some goal ↔ keygenSearch s = .waiting goal := by
  unfold State.request
  rw [h]
  cases keygenSearch s <;> simp

/-- A request is of a KEYGEN in flight, which has been given fewer answers than the cap (R144). -/
theorem request_some {s : State} {goal : Goal} (h : s.request = some goal) :
    s.phase = .busy .keygen ∧ keygenSearch s = .waiting goal ∧ s.replies.length < s.config.kgIterCap := by
  by_cases hp : s.phase = .busy .keygen
  · have hk := (request_keygen hp).1 h
    exact ⟨hp, hk, search_waiting hk⟩
  · rw [request_eq_none hp] at h; cases h

/-- What a completion step can do: wait for the RNG (R221), or end idle and done with every register that is no output
kept (R104). -/
theorem completion_cases (op : Op) (s : State) :
    (op = .keygen ∧ (∃ goal, keygenSearch s = .waiting goal) ∧ completion op s = s) ∨
    ((op = .keygen → ∀ goal, keygenSearch s ≠ .waiting goal) ∧
      (completion op s).done = true ∧ (completion op s).phase = .idle ∧
      (completion op s).replies = if op = .keygen then [] else s.replies) := by
  cases op with
  | modexp => exact .inr (by simp [completion, completeModexp])
  | keygen =>
    rw [show completion .keygen s = completeKeygen s from rfl]
    unfold completeKeygen
    split
    · next goal h => exact .inl ⟨rfl, ⟨goal, h⟩, rfl⟩
    · next h => exact .inr (by simp [h])
    · next h => exact .inr (by simp [h])
  | zeroize => exact .inr (by simp [completion, completeZeroize])

/-- With no request waiting, the completion step ends idle and done (R103, R104). -/
theorem completion_ends {op : Op} {s : State} (hp : s.phase = .busy op) (h : s.request = none) :
    (completion op s).done = true ∧ (completion op s).phase = .idle := by
  rcases completion_cases op s with ⟨rfl, ⟨goal, hk⟩, -⟩ | ⟨-, hd, hi, -⟩
  · rw [(request_keygen hp).2 hk] at h; cases h
  · exact ⟨hd, hi⟩

/-- A completion step keeps every register that is no output, and the other agents (R103). -/
theorem completion_fields (op : Op) (s : State) :
    (completion op s).irqEn = s.irqEn ∧ (completion op s).emode = s.emode ∧ (completion op s).werr = s.werr ∧
    (completion op s).lastop = s.lastop ∧ (completion op s).kbits = s.kbits ∧
    (completion op s).config = s.config ∧ (completion op s).program = s.program ∧
    (completion op s).reads = s.reads ∧ (completion op s).turns = s.turns ∧
    (completion op s).patience = s.patience ∧ (completion op s).answers = s.answers ∧
    (completion op s).fresh = s.fresh := by
  cases op with
  | modexp => simp [completion, completeModexp]
  | keygen => simp only [completion, completeKeygen]; split <;> simp
  | zeroize => simp [completion, completeZeroize]

/-- KEYGEN's outputs change only memory and `LEN` (R151). -/
theorem putKey_shape (s : State) (p q e : Nat) :
    s.putKey p q e = (s.withMem (s.putKey p q e).mem).setLen (BitVec.ofNat 16 (keyLen s.keyBits)) := by
  apply State.ext <;> simp

/-- A window is cleared in memory only (R170). -/
theorem clearPresent_shape (s : State) (W : Window) : s.clearPresent W = s.withMem (s.clearPresent W).mem := by
  apply State.ext <;> simp

/-- What MODEXP's completion changes (R120): memory and `STATUS`. -/
theorem completeModexp_shape (s : State) :
    completeModexp s = (s.withMem (completeModexp s).mem).complete .ok := by
  apply State.ext <;> simp [completeModexp]

/-- What ZEROIZE's completion changes (R170): memory and `STATUS`. -/
theorem completeZeroize_shape (s : State) :
    completeZeroize s = (s.withMem (completeZeroize s).mem).complete .ok := by
  apply State.ext <;> simp [completeZeroize]

/-- How KEYGEN's completion step goes (R154): it waits, ends with a key and its outputs, or with a code that is not 0
and no output. -/
theorem completeKeygen_cases (s : State) :
    (∃ goal, keygenSearch s = .waiting goal ∧ completeKeygen s = s) ∨
    (∃ p q e, keygenSearch s = .key p q e ∧ completeKeygen s = (s.clearReplies.putKey p q e).complete .ok) ∨
    (∃ code, keygenSearch s = .failed code ∧
      (code = .rngFailure ∨ (code = .keygenIterationCap ∧ s.config.kgIterCap ≤ s.replies.length)) ∧
      completeKeygen s = s.clearReplies.complete code) := by
  cases hk : keygenSearch s with
  | waiting goal => exact .inl ⟨goal, rfl, by unfold completeKeygen; rw [hk]⟩
  | key p q e => exact .inr (.inl ⟨p, q, e, rfl, by unfold completeKeygen; rw [hk]⟩)
  | failed code => exact .inr (.inr ⟨code, rfl, search_failed hk, by unfold completeKeygen; rw [hk]⟩)

/-- A completion keeps memory canonical. -/
theorem completion_wf (op : Op) (s : State) (hm : s.mem.wf = true) : (completion op s).mem.wf = true := by
  cases op with
  | modexp => simpa [completion, completeModexp] using wf_put s .r _ _ hm
  | keygen =>
    simp only [completion, completeKeygen]
    split
    · exact hm
    · simpa using wf_putKey _ _ _ _ (by simpa using hm)
    · simpa using hm
  | zeroize =>
    simp only [completion, completeZeroize, State.complete_mem]
    repeat (first | exact hm | refine wf_clearPresent _ _ ?_)

end Sys2Proof.Machine
end

