-- ==== Sys2Proof/Laws/Bus.lean ====
section
/-! SUPPORT. What a bus write can do (R58), and the address arithmetic of the map (R51, R52). -/

namespace Sys2Proof.Machine

/-- A window's offset in the map is a multiple of 4 below 4096, at the window's base (R51). -/
theorem target_window {off : Offset} {W : Window} {o : Nat} (h : target off = .window W o) :
    o % 4 = 0 ∧ o < 4096 ∧ alignedOffset off = W.base + o := by
  have ha : alignedOffset off % 4 = 0 := Nat.mul_mod_left _ _
  unfold target targetAt at h
  split at h
  · unfold registerAt at h
    repeat' split at h
    all_goals cases h
  · repeat' split at h
    all_goals (cases h; try (simp only [Window.base]; omega))

/-- The map finds a window's offset (R51). -/
theorem targetAt_window (W : Window) (o : Nat) (h : o < 4096) : targetAt (W.base + o) = .window W o := by
  generalize hb : W.base = b
  cases W <;> simp only [Window.base] at hb <;> unfold targetAt <;> split_ifs <;>
    first
    | (exfalso; omega)
    | exact congrArg (Target.window _) (by omega)

/-- What a bus write can do (R58): it always answers a next state. -/
theorem busWrite_cases (off : Offset) (w : Word) (s : State) : ∃ t, busWrite off w s = .next t ∧
    ((target off = .status ∧ t = s.writeStatus w) ∨
     (target off ≠ .status ∧ s.isBusy = true ∧ t = s.dropWrite) ∨
     (target off ≠ .status ∧ s.phase = .idle ∧
       (t = s ∨ (target off = .ctrl ∧ t = s.writeCtrl w) ∨ (target off = .len ∧ t = s.writeLen w) ∨
        (target off = .kbits ∧ t = s.writeKbits w) ∨
        (∃ W o, target off = .window W o ∧ W.hostWritable = true ∧ o < s.config.maxlen ∧ t = s.setWinWord W o w) ∨
        (target off = .cmd ∧ exec (decode s.config.hasKeygen w) s = .next t)))) := by
  unfold busWrite
  split
  · next h => exact ⟨_, rfl, .inl ⟨h, rfl⟩⟩
  · next h =>
    split
    · next hb => exact ⟨_, rfl, .inr (.inl ⟨h, hb, rfl⟩)⟩
    · next hb =>
      have hp : s.phase = .idle := (isBusy_eq_false_iff s).1 (by simpa using hb)
      cases ht : target off with
      | id => exact ⟨_, rfl, .inr (.inr ⟨nofun, hp, .inl rfl⟩)⟩
      | cfg => exact ⟨_, rfl, .inr (.inr ⟨nofun, hp, .inl rfl⟩)⟩
      | unmapped => exact ⟨_, rfl, .inr (.inr ⟨nofun, hp, .inl rfl⟩)⟩
      | status => exact absurd ht h
      | ctrl => exact ⟨_, rfl, .inr (.inr ⟨nofun, hp, .inr (.inl ⟨rfl, rfl⟩)⟩)⟩
      | len => exact ⟨_, rfl, .inr (.inr ⟨nofun, hp, .inr (.inr (.inl ⟨rfl, rfl⟩))⟩)⟩
      | kbits => exact ⟨_, rfl, .inr (.inr ⟨nofun, hp, .inr (.inr (.inr (.inl ⟨rfl, rfl⟩)))⟩)⟩
      | cmd =>
        obtain ⟨t, he, -⟩ := exec_cases (decode s.config.hasKeygen w) s
        exact ⟨t, he, .inr (.inr ⟨nofun, hp, .inr (.inr (.inr (.inr (.inr ⟨rfl, he⟩))))⟩)⟩
      | window W o =>
        simp only [idleWrite, State.writeWindow]
        split
        · next hw =>
          exact ⟨_, rfl, .inr (.inr ⟨nofun, hp, .inr (.inr (.inr (.inr (.inl ⟨W, o, rfl, hw.1, hw.2, rfl⟩))))⟩)⟩
        · exact ⟨_, rfl, .inr (.inr ⟨nofun, hp, .inl rfl⟩)⟩

/-- An offset of the block is found at `BASE` plus the offset (R50). -/
theorem offsetOf_busAddress (c : Config) (off : Offset) : offsetOf c (busAddress c off.toNat) = some off := by
  have := off.isLt
  unfold offsetOf busAddress
  rw [if_pos (by omega)]
  simp

end Sys2Proof.Machine
end

