-- ==== Sys2Proof/Laws/PerInstr.lean ====
section
/-! SUPPORT. Statements made per instruction, about the instruction as syntax: the fields of its word (R80, R81). -/

namespace Sys2Proof.Laws.Fields

/-- The `OPCODE` field the opcode map gives an instruction (R81). -/
def opcodeOf : Instr → BitVec 4
  | .modexp => 0x1
  | .keygen => 0x2
  | .zeroize => 0x3
  | .illegal _ opcode => opcode

/-- The `RSVD` field of an instruction's word (R80). -/
def rsvdOf : Instr → BitVec 28
  | .modexp => 0
  | .keygen => 0
  | .zeroize => 0
  | .illegal rsvd _ => rsvd

/-- The word of an instruction has the fields of R80 and R81. -/
def Statement (i : Instr) : Prop := opcodeField (encode i) = opcodeOf i ∧ rsvdField (encode i) = rsvdOf i

theorem modexp : Statement .modexp := ⟨rfl, rfl⟩

theorem keygen : Statement .keygen := ⟨rfl, rfl⟩

theorem zeroize : Statement .zeroize := ⟨rfl, rfl⟩

theorem illegal (rsvd : BitVec 28) (opcode : BitVec 4) : Statement (.illegal rsvd opcode) := by
  constructor
  · apply BitVec.eq_of_toNat_eq
    have := opcode.isLt
    simp only [opcodeField, encode, commandWord, opcodeOf, BitVec.extractLsb'_toNat, BitVec.toNat_append]
    rw [← Nat.shiftLeft_add_eq_or_of_lt this, Nat.shiftLeft_eq]
    omega
  · apply BitVec.eq_of_toNat_eq
    have h := opcode.isLt
    have := rsvd.isLt
    simp only [rsvdField, encode, commandWord, rsvdOf, BitVec.extractLsb'_toNat, BitVec.toNat_append]
    rw [← Nat.shiftLeft_add_eq_or_of_lt h, Nat.shiftLeft_eq, Nat.shiftRight_eq_div_pow]
    omega

end Sys2Proof.Laws.Fields
end

