-- ==== Sys2Proof/Laws/Step.lean ====
section
/-! SUPPORT. What one step of the machine can do (R13, R62). -/

namespace Sys2Proof.Machine

theorem SameEngine.refl (s : State) : SameEngine s s := rfl

/-- A turn of the list is taken from it. -/
theorem takeTurn_listed {s : State} {a : Agent} {rest : List Agent} (h : s.turns = a :: rest) :
    takeTurn s = (a, { s with turns := rest }) := by
  unfold takeTurn; rw [h]

/-- After the list, any agent may move while there is patience. -/
theorem takeTurn_free {s : State} {n : Nat} (h : s.turns = []) (hn : s.patience = n + 1) :
    takeTurn s = (Config.freeAgent s.fresh, { s with patience := n, fresh := s.fresh + 1 }) := by
  unfold takeTurn; rw [h, hn]

/-- With the patience used up, the agent that the command in flight waits for moves (R105). -/
theorem takeTurn_due {s : State} (h : s.turns = []) (hn : s.patience = 0) :
    takeTurn s = (s.awaited, { s with patience := Config.freeDelay s.fresh, fresh := s.fresh + 1 }) := by
  unfold takeTurn; rw [h, hn]

/-- Taking a turn changes only the other agents' fields. -/
theorem takeTurn_sameEngine (s : State) : SameEngine s (takeTurn s).2 := by
  unfold takeTurn
  split
  · rfl
  · split <;> rfl

/-- The engine's step with a command in flight is its completion step (R103). -/
theorem engineStep_inFlight {op : Op} {s : State} (hp : s.phase = .busy op) : engineStep s = .next (completion op s) := by
  unfold engineStep
  rw [hp]
  exact exec_inFlight op s hp

/-- The awaited agent is the RNG exactly while a request waits. -/
theorem awaited_cases (s : State) :
    (s.awaited = .engine ∧ s.request = none) ∨ (s.awaited = .rng ∧ ∃ goal, s.request = some goal) := by
  unfold State.awaited
  cases s.request with
  | none => exact .inl ⟨rfl, rfl⟩
  | some goal => exact .inr ⟨rfl, goal, rfl⟩

/-- What the RNG's step can do: nothing while no request waits, else give one answer (R143). -/
theorem rngStep_cases (s : State) :
    (s.request = none ∧ rngStep s = .next s) ∨
    (∃ goal, s.request = some goal ∧ rngStep s = .next { s with
      replies := s.replies ++ [{ answer := nextAnswer s, draw := s.fresh }]
      answers := s.answers.tail, fresh := s.fresh + 1 }) := by
  unfold rngStep
  cases h : s.request with
  | none => exact .inl ⟨rfl, rfl⟩
  | some goal => exact .inr ⟨goal, rfl, rfl⟩

/-- A host read changes only the counter of free values (R61). -/
theorem hostRead_state (addr : Nat) (s : State) : ∃ f, (hostRead addr s).2 = { s with fresh := f } := by
  unfold hostRead
  split
  · exact ⟨s.fresh, rfl⟩
  · exact ⟨_, rfl⟩

/-- What the host's step can do: change only its own fields, or write the bus. -/
theorem hostStep_cases (s : State) : ∃ t, hostStep s = .next t ∧
    (SameEngine s t ∨ ∃ off w s', SameEngine s s' ∧ busWrite off w s' = .next t) := by
  unfold hostStep
  split
  · exact ⟨_, rfl, .inl rfl⟩
  · next addr w rest hprog =>
    unfold hostWrite
    split
    · next off _ =>
      obtain ⟨t, ht, -⟩ := busWrite_cases off w { s with program := rest }
      exact ⟨t, ht, .inr ⟨off, w, { s with program := rest }, rfl, ht⟩⟩
    · exact ⟨_, rfl, .inl rfl⟩
  · next addr rest hprog =>
    obtain ⟨f, hf⟩ := hostRead_state addr s
    rw [hf]
    exact ⟨_, rfl, .inl rfl⟩
  · next addr mask value rest hprog =>
    obtain ⟨f, hf⟩ := hostRead_state addr s
    rw [hf]
    split <;> exact ⟨_, rfl, .inl rfl⟩
  · split <;> exact ⟨_, rfl, .inl rfl⟩

/-- What one step can do: nothing to the engine, a bus write, the completion step of the command in flight, an answer of
the RNG to its request, or a reset. -/
theorem step_cases (s : State) : ∃ t, step s = .next t ∧
    (SameEngine s t ∨ (∃ off w s', SameEngine s s' ∧ busWrite off w s' = .next t) ∨
     (∃ op s', SameEngine s s' ∧ s.phase = .busy op ∧ t = completion op s') ∨
     (∃ goal reply s', SameEngine s s' ∧ s'.request = some goal ∧
       t = { s' with replies := s'.replies ++ [reply], answers := s'.answers.tail, fresh := s'.fresh + 1 }) ∨
     (∃ s', SameEngine s s' ∧ t = s'.resetEngine)) := by
  have ht := takeTurn_sameEngine s
  unfold step
  generalize (takeTurn s).2 = s' at ht
  cases (takeTurn s).1 with
  | host =>
    obtain ⟨t, h, hcase⟩ := hostStep_cases s'
    refine ⟨t, h, ?_⟩
    rcases hcase with hs | ⟨off, w, s'', hs, hw⟩
    · exact .inl (by rw [hs, ht]; rfl)
    · exact .inr (.inl ⟨off, w, s'', by rw [hs, ht]; rfl, hw⟩)
  | engine =>
    have hp : s'.phase = s.phase := by rw [ht]
    rcases hph : s'.phase with _ | op
    · exact ⟨s', by simp only [agentStep, engineStep, hph], .inl ht⟩
    · exact ⟨completion op s', engineStep_inFlight hph,
        .inr (.inr (.inl ⟨op, s', ht, hp ▸ hph, rfl⟩))⟩
  | rng =>
    rcases rngStep_cases s' with ⟨-, h⟩ | ⟨goal, hr, h⟩
    · exact ⟨s', h, .inl ht⟩
    · exact ⟨_, h, .inr (.inr (.inr (.inl ⟨goal, _, s', ht, hr, rfl⟩)))⟩
  | reset => exact ⟨_, rfl, .inr (.inr (.inr (.inr ⟨s', ht, rfl⟩)))⟩

/-- A run goes on from the state its first step answers. -/
theorem run_succ {k : Nat} {s t : State} (h : step s = .next t) : core.run (k + 1) s = core.run k t := by
  have h' : core.step s = .next t := h
  simp only [Host.Core.run, h']

end Sys2Proof.Machine
end

