-- ==== Sys2Proof/Tests/Slice0.lean ====
section
/-! SUPPORT. The model's own tests: ill-formed instructions, words read and written bit by bit from R80 and R81, vectors
of `95_test_vectors.md` (each named), and for every statement with hypotheses a state that meets them. -/

namespace Sys2Proof.Tests

open Sys2Proof.Machine

/-! ### Well-formedness: R82 -/

theorem test_wf_modexp : Instr.modexp.wellFormed false = true := by decide
theorem test_wf_keygen : Instr.keygen.wellFormed true = true := by decide
theorem test_wf_zeroize : Instr.zeroize.wellFormed false = true := by decide
theorem test_illFormed_keygen_absent : Instr.keygen.wellFormed false = false := by decide
theorem test_illFormed_is_modexp : (Instr.illegal 0 0x1).wellFormed true = false := by decide
theorem test_illFormed_is_keygen : (Instr.illegal 0 0x2).wellFormed true = false := by decide
theorem test_illFormed_is_zeroize : (Instr.illegal 0 0x3).wellFormed true = false := by decide
theorem test_wf_illegal :
    (Instr.illegal 0 0x0).wellFormed true = true ∧ (Instr.illegal 0 0x4).wellFormed true = true ∧
    (Instr.illegal 0 0x2).wellFormed false = true ∧ (Instr.illegal 1 0x1).wellFormed true = true := by decide

/-! ### Words written out from R80 and R81: `RSVD` bits 31:4, then `OPCODE` bits 3:0 -/

theorem test_decode_modexp :
    decode true 0b00000000000000000000000000000001 = .modexp ∧ encode .modexp = 0b0001 := by decide
theorem test_decode_keygen :
    decode true 0b00000000000000000000000000000010 = .keygen ∧ encode .keygen = 0b0010 := by decide
theorem test_decode_zeroize :
    decode true 0b00000000000000000000000000000011 = .zeroize ∧ encode .zeroize = 0b0011 := by decide
theorem test_decode_illegal :
    decode true 0b10000000000000000000000000010001 = .illegal 0x8000001 0x1 ∧
    encode (.illegal 0x8000001 0x1) = 0b10000000000000000000000000010001 := by decide
theorem test_decode_keygen_absent :
    decode false 0b00000000000000000000000000000010 = .illegal 0 0x2 := by decide
theorem test_decodeTableWord :
    decodeTableWord 32 3 = some .zeroize ∧ decodeTableWord 32 (2 ^ 32) = none := by decide

/-! ### Helpers -/

/-- What holds of the next state an outcome answers. -/
def got (o : Outcome) (p : State → Bool) : Bool :=
  match o with
  | .next s => p s
  | .fault _ => false
  | .refused _ => false

/-- A small engine at the second block: windows of 8 bytes, three attempts, two accepted candidates. -/
def tiny : Config :=
  { winWords := 1, hasKeygen := true, baseBlock := 1, capLess1 := 2, primeTest := .listed [4091, 4093] }

/-- The same engine without the key generator. -/
def plain : Config := { tiny with hasKeygen := false }

/-- The small engine after reset. -/
def idleTiny : State := { State.reset with config := tiny }

/-- Operands in the first words of the windows, and `LEN`. -/
def mx (L : BitVec 16) (x k n : Word) : State :=
  { idleTiny with len := L, mem := (((idleTiny.setWinWord .x 0 x).setWinWord .k 0 k).setWinWord .n 0 n).mem }

/-- A command in flight. -/
def inFlight (op : Op) (s : State) : State := { s with phase := .busy op, lastop := op.opcode }

/-- KEYGEN in flight with `K = 24`, these answers given to its requests. -/
def kg (emode : Bool) (given : List RngAnswer) : State :=
  inFlight .keygen { idleTiny with
    kbits := 24, emode := emode, replies := given.zipIdx.map fun p => { answer := p.1, draw := p.2 } }

/-- KEYGEN in flight with `K = 24`, exact primality and the vectors' cap of 100. -/
def kgExact (emode : Bool) (given : List RngAnswer) : State :=
  { kg emode given with config := { tiny with capLess1 := 99, primeTest := .exact } }

/-- MX-1 in flight. -/
def mx1 : State := inFlight .modexp (mx 2 0x00040000 0x000D0000 0x01F10000)

/-- KG-9's draws in flight: two accepted candidates. -/
def kg9 : State := kg false [.value 0x7FC, .value 0x7FA, .value 0x005]

/-- KG-8's draws in flight: two accepted candidates and `e = 1`. -/
def kg8 : State := kg true [.value 0x7FC, .value 0x7FA, .value 1]

/-- ZEROIZE in flight over non-zero windows. -/
def zr : State := inFlight .zeroize (mx 2 0x00040000 0x000D0000 0x01F10000)

/-! ### Vectors -/

/-- MX-1. -/
theorem test_modexp_result :
    got (exec .modexp mx1) (fun s => s.statusWord == 0x102 && s.winWord .r 0 == 0x01BD0000) = true := by decide +kernel

/-- MX-38: `n` even but `x >= n`, so the range comes first. -/
theorem test_modexp_range_first :
    got (exec .modexp (mx 1 0x09000000 0x03000000 0x08000000)) (fun s => s.statusWord == 0x112) = true := by
  decide +kernel

/-- KG-1. -/
theorem test_keygen_fixed :
    got (exec .keygen (kgExact false [.value 0x7FE, .value 0x7FC, .value 0x7FA])) (fun s =>
      s.statusWord == 0x202 && s.winWord .n 0 == 0xFF800F00 && s.winWord .eOut 0 == 0x01000100
        && s.winWord .dOut 0 == 0x5C5E4D00 && s.len == 3 && s.replies == []) = true := by decide +kernel

/-- KG-6. -/
theorem test_keygen_random :
    got (exec .keygen (kgExact true [.value 0x7FC, .value 0x7FA, .value 2, .value 3, .value 7])) (fun s =>
      s.statusWord == 0x202 && s.winWord .eOut 0 == 0x00000700 && s.winWord .dOut 0 == 0x5B349B00
        && s.replies == []) = true := by decide +kernel

/-- KG-1, its second request: the RNG answers it, and the request for `q` then waits for an answer. -/
theorem test_rng_answers :
    got (step { kgExact false [.value 0x7FE] with turns := [.rng], answers := [.value 0x7FC, .value 0x7FA] }) (fun s =>
      s.replies.map (fun a => a.answer) == [.value 0x7FE, .value 0x7FC] && s.answers == [.value 0x7FA]
        && s.request == some (.drawQ 4093) && s.statusWord == 0x201) = true := by decide +kernel

/-- A stalled RNG keeps the engine busy: its step waits (R221). -/
theorem test_keygen_waits :
    got (step { kgExact false [.value 0x7FE] with turns := [.engine] }) (fun s =>
      s.phase == .busy .keygen && s.replies.length == 1) = true := by decide +kernel

/-- ZR-1. -/
theorem test_zeroize_clears : got (exec .zeroize zr) (fun s => s.statusWord == 0x302 && s.mem == []) = true := by
  decide +kernel

/-- ZR-3: `WERR` is not cleared by a start. -/
theorem test_zeroize_keeps_werr :
    got (exec .zeroize { idleTiny with werr := true }) (fun s => s.statusWord == 0x305) = true := by decide +kernel

/-- BUS-13 and BUS-15. -/
theorem test_illegal_words :
    got (busWrite 0x000C 0x00000011 idleTiny) (fun s => s.statusWord == 0x142) = true ∧
    got (busWrite 0x000C 0x00000004 idleTiny) (fun s => s.statusWord == 0x442) = true := by decide +kernel

/-- KG-20. -/
theorem test_keygen_absent :
    got (busWrite 0x000C 0x00000002 { idleTiny with config := plain, kbits := 24 }) (fun s => s.statusWord == 0x242)
      = true := by decide +kernel

/-- BUS-1 to BUS-3, at the reference parameters. -/
theorem test_bus_id_cfg :
    busRead 0x0000 State.reset = 0x4D455801 ∧ busRead 0x0004 State.reset = 0x00010200 ∧
    busRead 0x0006 State.reset = 0x00010200 := by decide +kernel

/-- BUS-10: the low offset bits are ignored, at the last word of the reference window. -/
theorem test_bus_low_bits :
    got (busWrite 0x11FE 0xAABBCCDD State.reset) (fun s => busRead 0x11FC s == 0xAABBCCDD) = true := by decide +kernel

/-- HZ-2: a write of `X` while busy is dropped and sets `WERR`. -/
theorem test_busy_write_dropped :
    got (busWrite 0x1000 0x00050000 mx1) (fun s => s.statusWord == 0x105 && s.win .x 1 == 4) = true := by
  decide +kernel

/-- The next step from reset runs the word placed by `withFetchWord`. -/
theorem test_fetch_word :
    got (step (State.reset.withFetchWord 32 3)) (fun s => s.phase == .busy .zeroize && s.statusWord == 0x301) = true := by
  decide +kernel

/-! ### Witnesses: each shows a state, or a boundary value of each clause, that meets a statement's hypotheses -/

theorem witness_DecodeIsTotalByFields :
    16 ≤ (0x10 : Word).toNat ∧ 16 ≤ (0xFFFFFFFF : Word).toNat ∧ (1 : Word).toNat = 1 ∧ (2 : Word).toNat = 2 ∧
    (3 : Word).toNat = 3 ∧ (0 : Word).toNat = 0 ∧ (4 ≤ (4 : Word).toNat ∧ (4 : Word).toNat < 16) ∧
    (4 ≤ (15 : Word).toNat ∧ (15 : Word).toNat < 16) ∧ idleTiny.phase = .idle := by decide

theorem witness_DecodeOfEncode :
    Instr.modexp.wellFormed false = true ∧ Instr.keygen.wellFormed true = true ∧
    Instr.zeroize.wellFormed true = true ∧ (Instr.illegal 0xFFFFFFF 0xF).wellFormed true = true ∧
    (Instr.illegal 0 0x2).wellFormed false = true := by decide

/-- Each clause at its bounds: `L` 0 and `MAXLEN + 1`; `x = n`; `n` even; passing at `L = 1` and at `L = MAXLEN`. -/
theorem witness_ModexpStartChecks :
    (mx 0 0 0 0).phase = .idle ∧ (mx 0 0 0 0).len.toNat = 0 ∧ tiny.maxlen < (mx 9 0 0 0).len.toNat ∧
    (mx 1 0x07000000 0 0x07000000).val .n 1 ≤ (mx 1 0x07000000 0 0x07000000).val .x 1 ∧
    ((mx 1 0x03000000 0 0x08000000).val .x 1 < (mx 1 0x03000000 0 0x08000000).val .n 1 ∧
      (mx 1 0x03000000 0 0x08000000).val .n 1 % 2 = 0) ∧
    ((mx 1 0x06000000 0 0x07000000).val .x 1 < (mx 1 0x06000000 0 0x07000000).val .n 1 ∧
      (mx 1 0x06000000 0 0x07000000).val .n 1 % 2 = 1) ∧
    ((mx 8 0 0 1).config.maxlen = 8 ∧ (((mx 8 0 0 0).setWinWord .n 4 1).val .x 8 < ((mx 8 0 0 0).setWinWord .n 4 1).val .n 8 ∧
      ((mx 8 0 0 0).setWinWord .n 4 1).val .n 8 % 2 = 1)) := by decide +kernel

theorem witness_ModexpWritesPowerModN :
    mx1.phase = .busy .modexp ∧ mx1.mem.wf = true ∧ 1 ≤ mx1.len.toNat ∧ mx1.len.toNat ≤ mx1.config.maxlen ∧
    mx1.val .x mx1.len.toNat < mx1.val .n mx1.len.toNat := by decide +kernel

theorem witness_ModexpFrame :
    mx1.phase = .busy .modexp ∧ mx1.mem.wf = true ∧ exec .modexp mx1 = .next (completeModexp mx1) ∧
    (Window.r.base + mx1.config.maxlen ≤ 0x4008 ∧ 0x3FFF < Window.r.base) :=
  ⟨rfl, by decide +kernel, rfl, by decide, by decide⟩

/-- MX-20, MX-23 and MX-22. -/
theorem witness_ModexpCornerCases :
    (∀ s ∈ [inFlight .modexp (mx 1 0 0 0x07000000), inFlight .modexp (mx 1 0 0 0x01000000),
        inFlight .modexp (mx 1 0 0x05000000 0x07000000)],
      s.phase = .busy .modexp ∧ s.mem.wf = true ∧ 1 ≤ s.len.toNat ∧ s.len.toNat ≤ s.config.maxlen ∧
      s.val .x s.len.toNat < s.val .n s.len.toNat) ∧
    ((mx 1 0 0 0x07000000).val .k 1 = 0 ∧ 3 ≤ (mx 1 0 0 0x07000000).val .n 1) ∧
    (mx 1 0 0 0x01000000).val .n 1 = 1 ∧
    ((mx 1 0 0x05000000 0x07000000).val .x 1 = 0 ∧ 1 ≤ (mx 1 0 0x05000000 0x07000000).val .k 1) := by decide +kernel

/-- MX-50 beside MX-1: other bytes past `L`. -/
theorem witness_ModexpIgnoresOperandTails :
    mx1.mem.wf = true ∧ (mx 2 0x0004FFFF 0x000DAAAA 0x01F1FFFF).mem.wf = true ∧
    (∀ W, W.hostWritable = true → ∀ i, i < mx1.len.toNat →
      (mx1.withMem (mx 2 0x0004FFFF 0x000DAAAA 0x01F1FFFF).mem).win W i = mx1.win W i) ∧
    mx1.phase = .busy .modexp ∧ exec .modexp mx1 = .next (completeModexp mx1) ∧
    ({ mx1 with phase := .idle } : State).phase = .idle ∧
    exec .modexp { mx1 with phase := .idle } = .next (({ mx1 with phase := .idle } : State).start .modexp 1
      (validateModexp { mx1 with phase := .idle })) := by
  refine ⟨by decide +kernel, by decide +kernel, fun W _ => ?_, rfl, rfl, rfl, rfl⟩
  cases W <;> decide +kernel

/-- `K` 25 (odd), 22, 66 (over `8 * MAXLEN = 64`); passing at 24 and 64; and an engine without the generator. -/
theorem witness_KeygenStartChecks :
    idleTiny.phase = .idle ∧ plain.hasKeygen = false ∧ idleTiny.config.hasKeygen = true ∧
    (25 : BitVec 16).toNat % 2 = 1 ∧ (22 : BitVec 16).toNat < 24 ∧ 8 * tiny.maxlen < (66 : BitVec 16).toNat ∧
    ((24 : BitVec 16).toNat % 2 = 0 ∧ 24 ≤ (24 : BitVec 16).toNat ∧ (24 : BitVec 16).toNat ≤ 8 * tiny.maxlen) ∧
    ((64 : BitVec 16).toNat % 2 = 0 ∧ 24 ≤ (64 : BitVec 16).toNat ∧ (64 : BitVec 16).toNat ≤ 8 * tiny.maxlen) := by
  decide +kernel

/-- KG-9 answered, and before its second answer. -/
theorem witness_KeygenCompletesWithinCap :
    kg9.phase = .busy .keygen ∧ kg9.request = none ∧ (kg false [.value 0x7FC]).phase = .busy .keygen ∧
    (kg false [.value 0x7FC]).request ≠ none := by decide +kernel

/-- KG-5: the second request answers `FAIL`. -/
theorem witness_KeygenNoOutputOnFailure :
    ∃ t, exec .keygen (kg false [.value 0x7FE, .fail]) = .next t ∧ t.errcode ≠ 0 :=
  ⟨completeKeygen (kg false [.value 0x7FE, .fail]), rfl, by decide +kernel⟩

theorem witness_KeygenKeyIsValid :
    ∀ s ∈ [kg9, kg8], s.phase = .busy .keygen ∧ s.mem.wf = true ∧ s.kbits.toNat % 2 = 0 ∧ 24 ≤ s.kbits.toNat ∧
      s.kbits.toNat ≤ 8 * s.config.maxlen ∧ exec .keygen s = .next (completeKeygen s) ∧
      (completeKeygen s).phase = .idle ∧ (completeKeygen s).errcode = 0 := by
  intro s hs
  simp only [List.mem_cons, List.not_mem_nil, or_false] at hs
  rcases hs with rfl | rfl
  · exact ⟨rfl, by decide +kernel, by decide +kernel, by decide +kernel, by decide +kernel, rfl, by decide +kernel,
      by decide +kernel⟩
  · exact ⟨rfl, by decide +kernel, by decide +kernel, by decide +kernel, by decide +kernel, rfl, by decide +kernel,
      by decide +kernel⟩

theorem witness_KeygenFrame :
    kg9.phase = .busy .keygen ∧ kg9.mem.wf = true ∧ exec .keygen kg9 = .next (completeKeygen kg9) ∧
    (completeKeygen kg9).phase = .idle ∧ (completeKeygen kg9).errcode = 0 ∧ (kg9.kbits.toNat + 7) / 8 ≤ 3 ∧ 7 < kg9.config.maxlen ∧
    (∀ W ∈ [Window.n, .eOut, .dOut], 0x2FFF < W.base ∨ W.base + kg9.config.maxlen ≤ 0x2FFF) :=
  ⟨rfl, by decide +kernel, rfl, by decide +kernel, by decide +kernel, by decide +kernel, by decide +kernel,
    by decide +kernel⟩

theorem witness_KeygenFixedExponentResult :
    kg9.phase = .busy .keygen ∧ kg9.mem.wf = true ∧ kg9.kbits.toNat = 2 * 12 ∧ kg9.kbits.toNat ≤ 8 * kg9.config.maxlen ∧
    kg9.emode = false ∧ kg9.replies = ⟨.value 0x7FC, 0⟩ :: ⟨.value 0x7FA, 1⟩ :: [⟨.value 0x005, 2⟩] ∧ 2 ≤ kg9.config.kgIterCap ∧
    0x7FC < 2 ^ 12 ∧ 0x7FA < 2 ^ 12 ∧ 4093 = 0x7FC ||| 2 ^ (12 - 1) ||| 1 ∧ 4091 = 0x7FA ||| 2 ^ (12 - 1) ||| 1 ∧
    (∀ draw, primeVerdict kg9.config.primeTest 4093 draw = true ∧ primeVerdict kg9.config.primeTest 4091 draw = true) ∧
    4093 ≠ 4091 ∧ 2 ^ (2 * 12 - 1) ≤ 4093 * 4091 ∧ Nat.gcd 65537 (Nat.lcm (4093 - 1) (4091 - 1)) = 1 := by
  refine ⟨rfl, rfl, rfl, by decide, rfl, rfl, by decide, by decide, by decide, by decide, by decide,
    fun _ => ⟨rfl, rfl⟩, by decide, by decide, by decide +kernel⟩

theorem witness_KeygenRandomExponentResult :
    kg8.phase = .busy .keygen ∧ kg8.mem.wf = true ∧ kg8.kbits.toNat = 2 * 12 ∧ kg8.kbits.toNat ≤ 8 * kg8.config.maxlen ∧
    kg8.emode = true ∧ kg8.replies = ⟨.value 0x7FC, 0⟩ :: ⟨.value 0x7FA, 1⟩ :: ⟨.value 1, 2⟩ :: [] ∧ 3 ≤ kg8.config.kgIterCap ∧
    0x7FC < 2 ^ 12 ∧ 0x7FA < 2 ^ 12 ∧ 4093 = 0x7FC ||| 2 ^ (12 - 1) ||| 1 ∧ 4091 = 0x7FA ||| 2 ^ (12 - 1) ||| 1 ∧
    (∀ draw, primeVerdict kg8.config.primeTest 4093 draw = true ∧ primeVerdict kg8.config.primeTest 4091 draw = true) ∧
    4093 ≠ 4091 ∧ 2 ^ (2 * 12 - 1) ≤ 4093 * 4091 ∧ 1 < Nat.lcm (4093 - 1) (4091 - 1) ∧
    Nat.gcd 1 (Nat.lcm (4093 - 1) (4091 - 1)) = 1 := by
  refine ⟨rfl, rfl, rfl, by decide, rfl, rfl, by decide, by decide, by decide, by decide, by decide,
    fun _ => ⟨rfl, rfl⟩, by decide, by decide, by decide +kernel, by decide +kernel⟩

/-- A rejected candidate; equal primes (KG-3), a low top bit (KG-2) and a shared factor (KG-11) of a pair; a rejected
`e` (KG-6), and one above the range of the candidates. -/
theorem witness_KeygenRejections :
    (0x7FE < 2 ^ (24 / 2) ∧ ∀ draw, primeVerdict (.listed [4091]) (candidate (24 / 2) 0x7FE) draw = false) ∧
    (0x7FC < 2 ^ (24 / 2) ∧ ∀ draw, primeVerdict (.listed [4093]) (candidate (24 / 2) 0x7FC) draw = true) ∧
    4093 = candidate (24 / 2) 0x7FC ∧ (2053 * candidate (24 / 2) 0x00F).testBit (24 - 1) = false ∧
    Nat.gcd 65537 (totient 917519 (candidate (40 / 2) 0xFFFFD)) ≠ 1 ∧
    (2 < totient 4093 4091 ∧ Nat.gcd 2 (totient 4093 4091) ≠ 1) ∧
    (8368138 < totient 4093 4091 ∧ Nat.gcd 8368138 (totient 4093 4091) ≠ 1 ∧ 2 ^ (24 / 2) ≤ 8368138) := by
  refine ⟨⟨by decide, fun _ => by show List.contains _ _ = _; decide⟩,
    ⟨by decide, fun _ => by show List.contains _ _ = _; decide⟩, by decide, by decide +kernel, by decide +kernel,
    by decide +kernel, by decide +kernel⟩

/-- A test that accepts nothing, two answers and three. -/
theorem witness_KeygenStopsAtCap :
    ∀ n ∈ [2, 3], ∃ s : State, s.phase = .busy .keygen ∧
      (∀ c draw, primeVerdict s.config.primeTest c draw = false) ∧ (∀ a ∈ s.replies, a.answer ≠ .fail) ∧
      s.replies.length = n ∧ s.config.kgIterCap = 3 := by
  intro n hn
  refine ⟨{ kg9 with config := { tiny with primeTest := .listed [] }, replies := kg9.replies.take n }, rfl,
    fun _ _ => rfl, ?_⟩
  simp only [List.mem_cons, List.not_mem_nil, or_false] at hn
  rcases hn with rfl | rfl <;> decide

theorem witness_KeygenReadsNoWindow :
    kg9.phase = .busy .keygen ∧ kg9.mem.wf = true ∧ mx1.mem.wf = true ∧
    exec .keygen kg9 = .next (completeKeygen kg9) ∧ (completeKeygen kg9).phase = .idle ∧
    (completeKeygen kg9).errcode = 0 :=
  ⟨rfl, by decide +kernel, by decide +kernel, rfl, by decide +kernel, by decide +kernel⟩

/-- The RNG's turn with a request waiting, and with none. -/
theorem witness_RngAnswersRequest :
    ∀ s ∈ [kg false [.value 0x7FC], kg9, mx1], ∃ t : State, t = { s with turns := [.rng] } ∧ t.turns = .rng :: [] ∧
      (t.request ≠ none ∨ (t.request = none ∧ t.phase = .busy .keygen) ∨ t.phase ≠ .busy .keygen) := by
  intro s hs
  simp only [List.mem_cons, List.not_mem_nil, or_false] at hs
  rcases hs with rfl | rfl | rfl
  · exact ⟨_, rfl, rfl, .inl (by decide +kernel)⟩
  · exact ⟨_, rfl, rfl, .inr (.inl (by decide +kernel))⟩
  · exact ⟨_, rfl, rfl, .inr (.inr (by decide +kernel))⟩

/-- KG-1's key, exact primality: KEYGEN, then MX-15 signs, then MX-16 verifies. -/
def signing : State := inFlight .modexp
  { mx 3 0x12345600 0x5C5E4D00 0xFF800F00 with config := { tiny with capLess1 := 99, primeTest := .exact } }

/-- MX-16 in flight. -/
def verifying : State := inFlight .modexp
  { mx 3 0x638FF200 0x01000100 0xFF800F00 with config := { tiny with capLess1 := 99, primeTest := .exact } }

/-- KG-1 in flight. -/
def generating : State := kgExact false [.value 0x7FE, .value 0x7FC, .value 0x7FA]

theorem witness_PrimeTestSound : PrimeTestSound .exact := fun c _ h => prime_of_isPrime c h

theorem witness_SignThenVerifyReturnsMessage :
    (generating.phase = .busy .keygen ∧ generating.mem.wf = true ∧ generating.kbits.toNat % 2 = 0 ∧
      24 ≤ generating.kbits.toNat ∧ generating.kbits.toNat ≤ 8 * generating.config.maxlen ∧
      PrimeTestSound generating.config.primeTest) ∧
    (exec .keygen generating = .next (completeKeygen generating) ∧ (completeKeygen generating).phase = .idle ∧
      (completeKeygen generating).errcode = 0) ∧
    (signing.phase = .busy .modexp ∧ signing.mem.wf = true ∧ signing.config = generating.config ∧
      signing.len = (completeKeygen generating).len ∧
      signing.val .n 3 = (completeKeygen generating).val .n 3 ∧
      signing.val .k 3 = (completeKeygen generating).val .dOut 3 ∧
      signing.val .x 3 < (completeKeygen generating).val .n 3 ∧ (completeKeygen generating).len.toNat = 3) ∧
    exec .modexp signing = .next (completeModexp signing) ∧
    (verifying.phase = .busy .modexp ∧ verifying.mem.wf = true ∧ verifying.config = generating.config ∧
      verifying.len = (completeKeygen generating).len ∧
      verifying.val .n 3 = (completeKeygen generating).val .n 3 ∧
      verifying.val .k 3 = (completeKeygen generating).val .eOut 3 ∧
      verifying.val .x 3 = (completeModexp signing).val .r 3) ∧
    exec .modexp verifying = .next (completeModexp verifying) := by
  refine ⟨⟨rfl, by decide +kernel, by decide +kernel, by decide +kernel, by decide +kernel, witness_PrimeTestSound⟩,
    ⟨rfl, by decide +kernel, by decide +kernel⟩, by decide +kernel, rfl, by decide +kernel, rfl⟩

theorem witness_ZeroizeClearsEveryWindow :
    idleTiny.phase = .idle ∧ zr.phase = .busy .zeroize ∧ zr.mem.wf = true ∧
    Window.dOut.present zr.config.hasKeygen = true ∧ 7 < zr.config.maxlen := by decide +kernel

theorem witness_ZeroizeFrame :
    zr.phase = .busy .zeroize ∧ zr.mem.wf = true ∧ exec .zeroize zr = .next (completeZeroize zr) ∧
    backed zr.config 0x1008 = false ∧ zr.memOk = true :=
  ⟨rfl, by decide +kernel, rfl, by decide +kernel, by decide +kernel⟩

theorem witness_IllegalCommandCompletes :
    idleTiny.phase = .idle ∧ (0x00F : Offset).toNat / 4 * 4 = 0x00C ∧ 16 ≤ (16 : Word).toNat ∧ (0 : Word).toNat = 0 ∧
    4 ≤ (4 : Word).toNat ∧ ((2 : Word).toNat = 2 ∧ plain.hasKeygen = false) := by decide

theorem witness_StartFrame :
    ∃ t, (mx 1 0x06000000 0 0x07000000).phase = .idle ∧ exec .modexp (mx 1 0x06000000 0 0x07000000) = .next t ∧
      t.phase = .busy .modexp :=
  ⟨_, rfl, rfl, by decide +kernel⟩

/-- MX-34. -/
theorem witness_ErrorWritesNothing :
    ∃ t, exec .modexp (mx 1 0x07000000 0 0x07000000) = .next t ∧ t.phase = .idle ∧ t.errcode ≠ 0 :=
  ⟨_, rfl, by decide +kernel, by decide +kernel⟩

theorem witness_CompletionRaisesInterrupt :
    (∃ t, exec .modexp mx1 = .next t ∧ t.phase = .idle) ∧
    (∃ t, idleTiny.phase = .idle ∧ exec .zeroize idleTiny = .next t ∧ t.phase ≠ .idle) :=
  ⟨⟨_, rfl, rfl⟩, ⟨_, rfl, rfl, by decide⟩⟩

theorem witness_BusyDropsWrites :
    mx1.phase = .busy .modexp ∧ (0x00F : Offset).toNat / 4 * 4 ≠ 0x010 ∧ (0x014 : Offset).toNat / 4 * 4 ≠ 0x010 ∧
    (0x010 : Offset).toNat / 4 * 4 = 0x010 ∧ (0x013 : Offset).toNat / 4 * 4 = 0x010 := by decide

theorem witness_BusyHidesWindows :
    mx1.phase = .busy .modexp ∧ 0x1000 ≤ (0x1000 : Offset).toNat ∧
    ((0x0FFF : Offset).toNat < 0x1000 ∧ (0x0FFF : Offset).toNat / 4 * 4 ≠ 0x010) ∧
    (0x013 : Offset).toNat / 4 * 4 = 0x010 := by decide

theorem witness_LowOffsetBitsIgnored : (0x1004 : Offset).toNat / 4 = (0x1007 : Offset).toNat / 4 := by decide

/-- The first and the last word of a window, and a window without the key generator. -/
theorem witness_WindowWordLanes :
    (mx 2 0x00040000 0 0).phase = .idle ∧ (mx 2 0x00040000 0 0).mem.wf = true ∧ 0 % 4 = 0 ∧ 4 % 4 = 0 ∧
    4 < (mx 2 0x00040000 0 0).config.maxlen ∧ (0x1000 : Offset).toNat = Window.x.base + 0 ∧
    (0x6004 : Offset).toNat = Window.dOut.base + 4 ∧ Window.dOut.present (mx 2 0x00040000 0 0).config.hasKeygen = true ∧
    Window.x.hostWritable = true := by decide +kernel

/-- Each clause at its bounds. -/
theorem witness_ReservedReadsZeroWritesIgnored :
    idleTiny.phase = .idle ∧ mx1.phase ≠ .idle ∧
    (0x01C = (0x01C : Offset).toNat / 4 * 4 ∧ 0xFFC = (0xFFF : Offset).toNat / 4 * 4 ∧
      0x7000 = (0x7000 : Offset).toNat / 4 * 4) ∧
    (0x1008 = (0x1008 : Offset).toNat / 4 * 4 ∧ tiny.maxlen ≤ 0x1008 % 0x1000 ∧ tiny.maxlen ≤ 0x6FFC % 0x1000) ∧
    (0x5000 = (0x5000 : Offset).toNat / 4 * 4 ∧ plain.hasKeygen = false) ∧
    (0x000 = (0x003 : Offset).toNat / 4 * 4 ∧ 0x004 = (0x004 : Offset).toNat / 4 * 4 ∧
      0x4000 = (0x4000 : Offset).toNat / 4 * 4) ∧
    (0x008 = (0x008 : Offset).toNat / 4 * 4 ∧ (0xFFFFFFFF : Word).toNat % 4 = (3 : Word).toNat % 4) ∧
    (0x014 = (0x014 : Offset).toNat / 4 * 4 ∧ 0x018 = (0x018 : Offset).toNat / 4 * 4 ∧
      (0x00010001 : Word).toNat % 2 ^ 16 = (1 : Word).toNat % 2 ^ 16) ∧
    (0x010 = (0x010 : Offset).toNat / 4 * 4 ∧ (0xFFFFFFFB : Word).getLsbD 1 = (2 : Word).getLsbD 1 ∧
      (0xFFFFFFFB : Word).getLsbD 2 = (2 : Word).getLsbD 2) := by decide

theorem witness_RegisterReadValues :
    (0x000 : Offset).toNat = 0x000 ∧ (0x004 : Offset).toNat = 0x004 ∧ (0x008 : Offset).toNat = 0x008 ∧
    (0x00C : Offset).toNat = 0x00C ∧ (0x010 : Offset).toNat = 0x010 ∧ (0x014 : Offset).toNat = 0x014 ∧
    (0x018 : Offset).toNat = 0x018 ∧ tiny.hasKeygen = true := by decide

theorem witness_RegisterWrites : idleTiny.phase = .idle ∧ idleTiny.config.hasKeygen = true := by decide

/-- `BASE = 0x10000`: the last address below the block, the first and last of it, the first above. -/
theorem witness_BlockAtBase :
    0xFFFF < idleTiny.config.base ∧ idleTiny.config.base + 65536 ≤ 0x20000 ∧
    0x10000 = idleTiny.config.base + (0x0000 : Offset).toNat ∧
    0x1FFFF = idleTiny.config.base + (0xFFFF : Offset).toNat := by decide

theorem witness_StepRunsDecodedCommand :
    ∃ (s : State) (turns : List Agent) (rest : List HostStmt), s.turns = .host :: turns ∧
      s.program = .wr 0x1000C 3 :: rest ∧ offsetOf s.config 0x1000C = some 0x00C ∧
      (0x00C : Offset).toNat / 4 * 4 = 0x00C ∧ s.phase = .idle :=
  ⟨{ idleTiny with turns := [.host, .engine], program := [.wr 0x1000C 3] }, _, _, rfl, rfl, by decide, by decide, rfl⟩

theorem witness_StepCompletesCommandInFlight :
    (∃ (s : State) (turns : List Agent), s.turns = .engine :: turns ∧ s.phase = .busy .modexp) ∧
    (∃ (s : State) (turns : List Agent), s.turns = .engine :: turns ∧ s.phase = .idle) :=
  ⟨⟨{ mx1 with turns := [.engine] }, _, rfl, rfl⟩, ⟨{ idleTiny with turns := [.engine] }, _, rfl, rfl⟩⟩

theorem witness_HostReadsPollsAndWaits :
    offsetOf tiny 0x10010 = some 0x010 ∧ ∀ p ∈ [[HostStmt.rd 0x10010], [.poll 0x10010 0x1 0x0], [.waitIrq]],
      ∃ s : State, s.config = tiny ∧ s.program = p :=
  ⟨by decide, fun p _ => ⟨{ idleTiny with program := p }, rfl, rfl⟩⟩

theorem witness_ResetEvent : ∃ (s : State) (turns : List Agent), s.turns = .reset :: turns :=
  ⟨{ mx1 with turns := [.reset] }, _, rfl⟩

/-- From a state that meets the invariant with a command in flight, a step to a next state. -/
theorem witness_StepKeepsInvariant :
    ∃ s t : State, s.Inv = true ∧ s.phase = .busy .modexp ∧ step s = .next t :=
  ⟨{ mx1 with turns := [.engine] }, _, by decide +kernel, rfl, rfl⟩

theorem witness_ParametersNeverChange : ∃ s t : State, step s = .next t :=
  ⟨{ mx1 with turns := [.reset] }, _, rfl⟩

theorem witness_OperandsFrozenWhileBusy :
    ∃ s t : State, s.phase = .busy .modexp ∧ step s = .next t ∧ t.phase = .busy .modexp ∧ t.werr = true :=
  ⟨{ mx1 with turns := [.host], program := [.wr 0x11000 5] }, _, rfl, rfl, by decide +kernel, by decide +kernel⟩

theorem witness_BusyEngineCompletes : kg9.phase = .busy .keygen ∧ mx1.phase = .busy .modexp := ⟨rfl, rfl⟩

/-- A host write, the three completions and the reset each change a byte. -/
theorem witness_WindowWriters :
    ∀ p ∈ [({ mx 2 0x00040000 0 0 with turns := [.host], program := [.wr 0x11000 0x00050000] }, Window.x, 1),
        ({ mx1 with turns := [.engine] }, Window.r, 1), ({ kg9 with turns := [.engine] }, Window.dOut, 0),
        ({ zr with turns := [.engine] }, Window.x, 1), ({ mx1 with turns := [.reset] }, Window.n, 0)],
      (p.1 : State).mem.wf = true ∧ p.2.2 < p.1.config.maxlen ∧
      got (step p.1) (fun t => t.win p.2.1 p.2.2 != p.1.win p.2.1 p.2.2) = true := by decide +kernel

theorem witness_WriteErrorIsSticky :
    ∃ s t : State, s.werr = true ∧ step s = .next t ∧ t.werr = false :=
  ⟨{ idleTiny with werr := true, turns := [.host], program := [.wr 0x10010 4] }, _, rfl, rfl, by decide +kernel⟩

/-- HZ-9. -/
theorem witness_ClearAndCompletionInEitherOrder :
    (mx1.phase = .busy .modexp ∧ mx1.request = none) ∧ (kg9.phase = .busy .keygen ∧ kg9.request = none) ∧
    (0x2 : Word).getLsbD 1 = true := by decide +kernel

end Sys2Proof.Tests
end

section
/-! The scope of the model (R7, R8, R13, R50): the RNG's turn, the parameters, and the block at `BASE`. -/

namespace Sys2Proof.Machine

/-! ### A turn of the list, and what only the engine's state decides -/

/-- A step in a turn of the list is that agent's step (R62). -/
theorem step_listed {s : State} {a : Agent} {turns : List Agent} (h : s.turns = a :: turns) :
    step s = agentStep a { s with turns := turns } := by
  rw [step, takeTurn_listed h]

theorem SameEngine.request_eq {s t : State} (h : SameEngine s t) : t.request = s.request := by
  rw [h]; rfl

theorem SameEngine.config_eq {s t : State} (h : SameEngine s t) : t.config = s.config := by
  rw [h]

/-! ### The RNG's turn (R13, R143) -/

theorem rngStep_of_request_eq_none {s : State} (h : s.request = none) : rngStep s = .next s := by
  simp [rngStep, h]

theorem rngStep_of_request_ne_none {s : State} (h : s.request ≠ none) :
    rngStep s = .next { s with
      replies := s.replies ++ [⟨nextAnswer s, s.fresh⟩], answers := s.answers.tail, fresh := s.fresh + 1 } := by
  obtain ⟨goal, hgoal⟩ := Option.ne_none_iff_exists'.1 h
  simp [rngStep, hgoal]

/-- The next answer is the head of the RNG's list while it has one. -/
theorem nextAnswer_cons {s : State} {a : RngAnswer} {later : List RngAnswer} (h : s.answers = a :: later) :
    nextAnswer s = a := by
  simp [nextAnswer, h]

/-- Settles O21: the listed turn is `rngStep`, in whose state the same request waits as before the turn was taken. -/
theorem rngAnswersRequest : Obligations.RngAnswersRequest := by
  unfold Obligations.RngAnswersRequest
  intro s turns hturns
  have hstep : step s = rngStep { s with turns := turns } := step_listed hturns
  have hreq : ({ s with turns := turns } : State).request = s.request :=
    SameEngine.request_eq rfl
  refine ⟨fun hnone => ?_, request_eq_none, fun hsome => ?_⟩
  · rw [hstep, rngStep_of_request_eq_none (hreq.trans hnone)]
  · refine ⟨nextAnswer s, fun b later hb => nextAnswer_cons hb, ?_⟩
    rw [hstep, rngStep_of_request_ne_none (hreq ▸ hsome)]
    rfl

/-! ### The parameters (R7, R8) -/

theorem completion_config (op : Op) (s : State) : (completion op s).config = s.config := by
  obtain ⟨-, -, -, -, -, hconfig, -⟩ := completion_fields op s
  exact hconfig

/-- A start, a completion step and a dropped command keep the parameters. -/
theorem exec_keeps_config {i : Instr} {s t : State} (h : exec i s = .next t) : t.config = s.config := by
  obtain ⟨t', ht', hcase⟩ := exec_cases i s
  obtain rfl : t' = t := by simpa [ht'] using h
  rcases hcase with ⟨-, ⟨op, -, -, rfl⟩ | ⟨opcode, rfl⟩⟩ | ⟨op, -, -, rfl⟩ | ⟨op, -, -, rfl⟩
  · cases op <;> simp [startFrom]
  · simp
  · exact completion_config op s
  · simp

/-- A bus write, whatever its target, keeps the parameters. -/
theorem busWrite_keeps_config {off : Offset} {w : Word} {s t : State} (h : busWrite off w s = .next t) :
    t.config = s.config := by
  obtain ⟨t', ht', hcase⟩ := busWrite_cases off w s
  obtain rfl : t' = t := by simpa [ht'] using h
  rcases hcase with ⟨-, rfl⟩ | ⟨-, -, rfl⟩ | ⟨-, -, hidle⟩
  · simp
  · simp
  · rcases hidle with rfl | ⟨-, rfl⟩ | ⟨-, rfl⟩ | ⟨-, rfl⟩ | ⟨W, o, -, -, -, rfl⟩ | ⟨-, hexec⟩
    · rfl
    · simp
    · simp
    · simp
    · simp
    · exact exec_keeps_config hexec

/-- Settles O45, by the cases of a step: each agent's step keeps the parameters. -/
theorem parametersNeverChange : Obligations.ParametersNeverChange := by
  unfold Obligations.ParametersNeverChange
  intro s t h
  obtain ⟨t', ht', hcase⟩ := step_cases s
  obtain rfl : t' = t := by simpa [ht'] using h
  rcases hcase with hsame | ⟨off, w, s', hsame, hwrite⟩ | ⟨op, s', hsame, -, rfl⟩
    | ⟨goal, reply, s', hsame, -, rfl⟩ | ⟨s', hsame, rfl⟩
  · exact hsame.config_eq
  · exact (busWrite_keeps_config hwrite).trans hsame.config_eq
  · exact (completion_config op s').trans hsame.config_eq
  · exact hsame.config_eq
  · exact s'.resetEngine_config.trans hsame.config_eq

/-! ### The block at `BASE` (R50, R197) -/

/-- An address below or above the 64 KiB block selects no offset of it. -/
theorem offsetOf_outside {c : Config} {addr : Nat} (h : addr < c.base ∨ c.base + 65536 ≤ addr) :
    offsetOf c addr = none :=
  if_neg (by omega)

theorem base_aligned (c : Config) : c.base % 65536 = 0 := Nat.mul_mod_right 65536 c.baseBlock

/-- Settles O36: `offsetOf` finds every offset of the block and none outside it. -/
theorem blockAtBase : Obligations.BlockAtBase := by
  unfold Obligations.BlockAtBase
  refine fun addr w s => ⟨fun houtside => ?_, ?_, base_aligned s.config⟩
  · simp [hostWrite, offsetOf_outside houtside]
  · rintro off rfl
    have hoff : offsetOf s.config (s.config.base + off.toNat) = some off := offsetOf_busAddress s.config off
    constructor
    · simp [hostWrite, hoff]
    · simp [hostRead, hoff]

end Sys2Proof.Machine
end

section
/-! The bytes that exist (R28, R53): what each operation leaves of the offsets that are no byte of a window the engine
has, and `memOk` as a statement about reads. -/

namespace Sys2Proof.Machine

/-! ### Backed offsets -/

/-- A backed offset is a byte below `MAXLEN` of a window the engine has. -/
theorem backed_iff {c : Config} {a : Nat} :
    backed c a = true ↔ ∃ W : Window, W.present c.hasKeygen = true ∧ W.base ≤ a ∧ a < W.base + c.maxlen := by
  simp only [backed, List.any_eq_true, Bool.and_eq_true, decide_eq_true_eq, and_assoc]
  constructor
  · rintro ⟨W, -, h⟩
    exact ⟨W, h⟩
  · rintro ⟨W, h⟩
    exact ⟨W, by cases W <;> simp [Window.all], h⟩

/-- An offset that is not backed is outside every window the engine has. -/
theorem outside_of_not_backed {c : Config} {a : Nat} (ha : backed c a = false) {W : Window}
    (hW : W.present c.hasKeygen = true) : a < W.base ∨ W.base + c.maxlen ≤ a := by
  by_contra hin
  have : backed c a = true := backed_iff.2 ⟨W, hW, by omega, by omega⟩
  simp [this] at ha

theorem present_of_hostWritable {W : Window} (h : W.hostWritable = true) (hk : Bool) : W.present hk = true := by
  cases W <;> simp_all [Window.hostWritable, Window.present]

/-! ### Canonical memory -/

/-- A canonical list reads back each of its cells, and none of them is zero. -/
theorem Memory.read_of_mem {m : Memory} {lo : Nat} (hm : Memory.wfFrom lo m = true) {a : Nat} {v : Byte}
    (h : (a, v) ∈ m) : m.read a = v ∧ v ≠ 0 ∧ lo ≤ a := by
  induction m generalizing lo with
  | nil => cases h
  | cons cell m ih =>
    obtain ⟨b, u⟩ := cell
    simp only [Memory.wfFrom, Bool.and_eq_true, decide_eq_true_eq, bne_iff_ne] at hm
    obtain ⟨⟨hlo, hu⟩, hrest⟩ := hm
    rcases List.mem_cons.1 h with heq | htail
    · obtain ⟨rfl, rfl⟩ := Prod.mk.inj heq
      exact ⟨by simp [Memory.read], hu, hlo⟩
    · obtain ⟨hread, hv, hb⟩ := ih hrest htail
      refine ⟨?_, hv, by omega⟩
      rw [Memory.read, if_neg (by omega), if_neg (by omega), hread]

/-- An offset that reads other than 0 is listed. -/
theorem Memory.mem_of_read_ne_zero {m : Memory} {a : Nat} (h : m.read a ≠ 0) : (a, m.read a) ∈ m := by
  induction m with
  | nil => simp [Memory.read] at h
  | cons cell m ih =>
    obtain ⟨b, u⟩ := cell
    rw [Memory.read] at h ⊢
    split at h
    · next heq => simp [heq]
    · next hne =>
      split at h
      · exact absurd rfl h
      · next hlt => simp [hne, hlt, ih h]

/-- Memory lists only bytes that exist exactly when it is canonical and every other offset reads 0. -/
theorem memOk_iff (s : State) :
    s.memOk = true ↔ s.mem.wf = true ∧ ∀ a, backed s.config a = false → s.mem.read a = 0 := by
  simp only [State.memOk, Bool.and_eq_true, List.all_eq_true, and_congr_right_iff]
  intro hwf
  constructor
  · intro hall a ha
    by_contra hne
    have := hall _ (Memory.mem_of_read_ne_zero hne)
    simp [ha] at this
  · rintro hzero ⟨a, v⟩ hcell
    obtain ⟨hread, hv, -⟩ := Memory.read_of_mem hwf hcell
    by_contra hb
    exact hv (hread ▸ hzero a (by simpa using hb))

/-- `memOk` is kept where the canonical form is and the offsets that are no bytes read as before. -/
theorem memOk_of_frame {s t : State} (hs : s.memOk = true) (hconfig : t.config = s.config) (hwf : t.mem.wf = true)
    (hframe : ∀ a, backed s.config a = false → t.mem.read a = s.mem.read a) : t.memOk = true := by
  obtain ⟨-, hzero⟩ := (memOk_iff s).1 hs
  refine (memOk_iff t).2 ⟨hwf, fun a ha => ?_⟩
  rw [hconfig] at ha
  rw [hframe a ha, hzero a ha]

/-- What `exec` answers for the command in flight is its completion step (R103). -/
theorem completion_of_exec {op : Op} {s t : State} (hphase : s.phase = .busy op) (h : exec op.instr s = .next t) :
    completion op s = t :=
  Host.Outcome.next.inj ((exec_inFlight op s hphase).symm.trans h)

/-! ### What the completions leave unchanged (R120, R151, R170) -/

/-- MODEXP's completion writes only window `R` (R120). -/
theorem read_completeModexp_outside {s : State} (hm : s.mem.wf = true) {a : Nat}
    (ha : a < Window.r.base ∨ Window.r.base + s.config.maxlen ≤ a) :
    (completeModexp s).mem.read a = s.mem.read a :=
  read_put_outside s .r _ _ a hm ha

/-- The outputs of KEYGEN are written to `N`, `E_OUT` and `D_OUT` only (R151). -/
theorem read_putKey_outside {s : State} (p q e : Nat) (hm : s.mem.wf = true) {a : Nat}
    (ha : ∀ W ∈ [Window.n, .eOut, .dOut], a < W.base ∨ W.base + s.config.maxlen ≤ a) :
    (s.putKey p q e).mem.read a = s.mem.read a := by
  simp only [List.forall_mem_cons] at ha
  obtain ⟨hn, he, hd, -⟩ := ha
  have hm₁ := wf_put s .n (keyLen s.keyBits) (p * q) hm
  have hm₂ := wf_put (s.put .n (keyLen s.keyBits) (p * q)) .eOut (keyLen s.keyBits) e hm₁
  rw [State.putKey, State.setLen_mem, read_put_outside _ _ _ _ _ hm₂ hd, read_put_outside _ _ _ _ _ hm₁ he,
    read_put_outside _ _ _ _ _ hm hn]

/-- KEYGEN's completion step writes `N`, `E_OUT` and `D_OUT` only (R151, R152). -/
theorem read_completeKeygen_outside {s : State} (hm : s.mem.wf = true) {a : Nat}
    (ha : ∀ W ∈ [Window.n, .eOut, .dOut], a < W.base ∨ W.base + s.config.maxlen ≤ a) :
    (completeKeygen s).mem.read a = s.mem.read a := by
  rcases completeKeygen_cases s with ⟨goal, -, h⟩ | ⟨p, q, e, -, h⟩ | ⟨code, -, -, h⟩
  · rw [h]
  · rw [h, State.complete_mem, read_putKey_outside (s := s.clearReplies) p q e hm ha, State.clearReplies_mem]
  · rw [h, State.complete_mem, State.clearReplies_mem]

/-- A window cleared if the engine has it: then its bytes read 0, and any other offset as before (R170). -/
theorem read_clearPresent (s : State) (W : Window) (hm : s.mem.wf = true) (a : Nat) :
    (s.clearPresent W).mem.read a
      = if W.present s.config.hasKeygen && decide (W.base ≤ a) && decide (a < W.base + s.config.maxlen) then 0
        else s.mem.read a := by
  unfold State.clearPresent
  split
  · next hp => simp [hp, Memory.read_clear _ _ _ _ hm]
  · next hp => simp [hp]

/-- The windows of a list cleared, each if the engine has it: a byte of one of them reads 0, any other as before. -/
theorem read_clearPresent_foldl (Ws : List Window) (s : State) (hm : s.mem.wf = true) (a : Nat) :
    (Ws.foldl State.clearPresent s).mem.read a
      = if Ws.any fun W => W.present s.config.hasKeygen && decide (W.base ≤ a) && decide (a < W.base + s.config.maxlen)
        then 0 else s.mem.read a := by
  induction Ws generalizing s with
  | nil => simp
  | cons W Ws ih =>
    rw [List.foldl_cons, ih _ (wf_clearPresent s W hm), List.any_cons]
    simp only [State.clearPresent_config]
    rw [read_clearPresent s W hm]
    generalize (W.present s.config.hasKeygen && decide (W.base ≤ a) && decide (a < W.base + s.config.maxlen)) = inW
    generalize (Ws.any fun _ => _) = inWs
    cases inWs <;> cases inW <;> rfl

theorem completeZeroize_eq_foldl (s : State) :
    completeZeroize s = (Window.all.foldl State.clearPresent s).complete .ok := rfl

/-- ZEROIZE's completion makes every byte that exists 0 and leaves every other offset (R170). -/
theorem read_completeZeroize {s : State} (hm : s.mem.wf = true) (a : Nat) :
    (completeZeroize s).mem.read a = if backed s.config a then 0 else s.mem.read a := by
  rw [completeZeroize_eq_foldl, State.complete_mem, read_clearPresent_foldl _ _ hm]
  rfl

/-- No completion step of a command that exists changes an offset that is no byte (R28, R53). -/
theorem read_completion_of_not_backed {op : Op} {s : State} (hm : s.mem.wf = true)
    (hop : op.present s.config = true) {a : Nat} (ha : backed s.config a = false) :
    (completion op s).mem.read a = s.mem.read a := by
  cases op with
  | modexp => exact read_completeModexp_outside hm (outside_of_not_backed ha rfl)
  | keygen =>
    refine read_completeKeygen_outside hm fun W hW => outside_of_not_backed ha ?_
    simp only [List.mem_cons, List.not_mem_nil, or_false] at hW
    rcases hW with rfl | rfl | rfl
    · rfl
    · exact hop
    · exact hop
  | zeroize => rw [completion, read_completeZeroize hm, if_neg (by simp [ha])]

/-! ### What a word written leaves unchanged (R54, R58) -/

/-- A word written at an aligned offset below `MAXLEN` of a window changes no byte outside the window. -/
theorem read_setWinWord_outside {s : State} {W : Window} {o : Nat} (w : Word) (hm : s.mem.wf = true)
    (ho : o % 4 = 0) (hlt : o < s.config.maxlen) {a : Nat}
    (ha : a < W.base ∨ W.base + s.config.maxlen ≤ a) : (s.setWinWord W o w).mem.read a = s.mem.read a := by
  have hmax := maxlen_mod_four s.config
  rw [State.setWinWord_mem, Memory.read_fill _ _ _ _ _ hm, if_neg (by omega)]

/-- Settles O7: memory and `STATUS` change (`completeModexp_shape`), and of memory only the window written. -/
theorem modexpFrame : Obligations.ModexpFrame := by
  unfold Obligations.ModexpFrame
  intro s t hphase hm ht
  obtain rfl := completion_of_exec (op := .modexp) hphase ht
  exact ⟨completeModexp_shape s, fun a => read_completeModexp_outside hm⟩

/-- Settles O24: what is left after clearing reads 0 everywhere if it did so outside the bytes that exist, and a
canonical memory that does is empty. -/
theorem zeroizeFrame : Obligations.ZeroizeFrame := by
  unfold Obligations.ZeroizeFrame
  intro s t hphase hm ht
  obtain rfl := completion_of_exec (op := .zeroize) hphase ht
  have hread : ∀ a, backed s.config a = false → (completeZeroize s).mem.read a = s.mem.read a := fun a ha =>
    read_completion_of_not_backed (op := .zeroize) hm rfl ha
  refine ⟨hread, fun hok => Memory.eq_of_read _ [] (completion_wf .zeroize s hm) rfl fun a => ?_⟩
  obtain ⟨-, hzero⟩ := (memOk_iff s).1 hok
  rw [completion, read_completeZeroize hm]
  split
  · rfl
  · next ha => exact hzero a (by simpa using ha)

end Sys2Proof.Machine
end

section
/-! What one step is, agent by agent (R13, R62): the relation `Move`, which every statement about a step goes through,
and what a bus write, a start and a completion step keep. -/

namespace Sys2Proof.Machine

/-! ### Moves -/

/-- The ways a turn of an agent takes the machine from `s` to a next state. -/
inductive Move (s : State) : Agent → State → Prop where
  /-- Nothing of the engine changes: a host statement that writes no register of the block, an idle engine, an RNG with
  no request. -/
  | quiet {a : Agent} {t : State} (same : SameEngine s t) : Move s a t
  /-- The host writes the bus (R58). -/
  | write {addr : Nat} {w : Word} {rest : List HostStmt} {off : Offset} {s' t : State}
      (stmt : s.program = .wr addr w :: rest) (hoff : offsetOf s.config addr = some off) (same : SameEngine s s')
      (hwrite : busWrite off w s' = .next t) : Move s .host t
  /-- The engine performs the completion step of the command in flight (R103). -/
  | complete {op : Op} {s' : State} (same : SameEngine s s') (hphase : s.phase = .busy op) :
      Move s .engine (completion op s')
  /-- The RNG answers the request that waits (R143). -/
  | answer {goal : Goal} {reply : Reply} {s' : State} (same : SameEngine s s') (hreq : s'.request = some goal) :
      Move s .rng
        { s' with replies := s'.replies ++ [reply], answers := s'.answers.tail, fresh := s'.fresh + 1 }
  /-- The engine is reset (R210). -/
  | reset {s' : State} (same : SameEngine s s') : Move s .reset s'.resetEngine

section SameEngine
variable {s t : State} (h : SameEngine s t)
include h

theorem SameEngine.trans {u : State} (h' : SameEngine t u) : SameEngine s u := by rw [h', h]; rfl
theorem SameEngine.phase_eq : t.phase = s.phase := by rw [h]
theorem SameEngine.mem_eq : t.mem = s.mem := by rw [h]
theorem SameEngine.werr_eq : t.werr = s.werr := by rw [h]
theorem SameEngine.replies_eq : t.replies = s.replies := by rw [h]
theorem SameEngine.win_eq : t.win = s.win := by rw [h]; rfl

end SameEngine

/-- The host's step writes the bus when its statement is a `WR` to the block, and else changes only its own fields. -/
theorem hostStep_move {s t : State} (h : hostStep s = .next t) : Move s .host t := by
  unfold hostStep at h
  split at h
  · cases h; exact .quiet rfl
  · next addr w rest hprog =>
    unfold hostWrite at h
    split at h
    · next off hoff => exact .write (s' := { s with program := rest }) hprog hoff rfl h
    · cases h; exact .quiet rfl
  · next addr rest hprog =>
    obtain ⟨f, hf⟩ := hostRead_state addr s
    rw [hf] at h
    cases h; exact .quiet rfl
  · next addr mask value rest hprog =>
    obtain ⟨f, hf⟩ := hostRead_state addr s
    rw [hf] at h
    split at h <;> (cases h; exact .quiet rfl)
  · split at h <;> (cases h; exact .quiet rfl)

/-- An agent's step from a state that differs from `s` in the agents' fields only, with the host's program kept, is a
move from `s`. -/
theorem Move.of_sameEngine {s s' t : State} {a : Agent} (same : SameEngine s s') (hprog : s'.program = s.program)
    (h : Move s' a t) : Move s a t := by
  cases h with
  | quiet same' => exact .quiet (same.trans same')
  | write stmt hoff same' hwrite =>
    exact .write (hprog ▸ stmt) (same.config_eq ▸ hoff) (same.trans same') hwrite
  | complete same' hphase => exact .complete (same.trans same') (same.phase_eq ▸ hphase)
  | answer same' hreq => exact .answer (same.trans same') hreq
  | reset same' => exact .reset (same.trans same')

theorem takeTurn_program (s : State) : (takeTurn s).2.program = s.program := by
  unfold takeTurn
  split
  · rfl
  · split <;> rfl

/-- What each agent's step is. -/
theorem agentStep_move {a : Agent} {s t : State} (h : agentStep a s = .next t) : Move s a t := by
  cases a with
  | host => exact hostStep_move h
  | engine =>
    rcases hphase : s.phase with _ | op
    · simp only [agentStep, engineStep, hphase] at h
      cases h; exact .quiet rfl
    · rw [agentStep, engineStep_inFlight hphase] at h
      cases h; exact .complete rfl hphase
  | rng =>
    rcases rngStep_cases s with ⟨-, hnone⟩ | ⟨goal, hreq, hsome⟩
    · rw [agentStep, hnone] at h
      cases h; exact .quiet rfl
    · rw [agentStep, hsome] at h
      cases h; exact .answer rfl hreq
  | reset => cases h; exact .reset rfl

/-- A step is a move of the agent whose turn it is (R62). -/
theorem step_move {s t : State} (h : step s = .next t) : Move s (takeTurn s).1 t :=
  .of_sameEngine (takeTurn_sameEngine s) (takeTurn_program s) (agentStep_move h)

/-! ### What a start, a completion step and a bus write can do -/

/-- What a bus write that answers `t` has done (R58). -/
theorem busWrite_next {off : Offset} {w : Word} {s t : State} (h : busWrite off w s = .next t) :
    (target off = .status ∧ t = s.writeStatus w) ∨
    (target off ≠ .status ∧ s.isBusy = true ∧ t = s.dropWrite) ∨
    (target off ≠ .status ∧ s.phase = .idle ∧
      (t = s ∨ (target off = .ctrl ∧ t = s.writeCtrl w) ∨ (target off = .len ∧ t = s.writeLen w) ∨
        (target off = .kbits ∧ t = s.writeKbits w) ∨
        (∃ W o, target off = .window W o ∧ W.hostWritable = true ∧ o < s.config.maxlen ∧ t = s.setWinWord W o w) ∨
        (target off = .cmd ∧ exec (decode s.config.hasKeygen w) s = .next t))) := by
  obtain ⟨t', ht', hcase⟩ := busWrite_cases off w s
  obtain rfl : t' = t := Host.Outcome.next.inj (ht'.symm.trans h)
  exact hcase

/-- What `exec` has done that answers `t`: a start from idle, the completion step of the command in flight, or a
dropped command (R100, R103, R106). -/
theorem exec_next {i : Instr} {s t : State} (h : exec i s = .next t) :
    (s.phase = .idle ∧ ((∃ op, i = op.instr ∧ op.present s.config = true ∧
        t = (startFrom op s).start op op.opcode (validate op s)) ∨ ∃ opcode, t = s.startIllegal opcode)) ∨
    (∃ op, s.phase = .busy op ∧ i = op.instr ∧ t = completion op s) ∨
    (∃ op, s.phase = .busy op ∧ i ≠ op.instr ∧ t = s.dropWrite) := by
  obtain ⟨t', ht', hcase⟩ := exec_cases i s
  obtain rfl : t' = t := Host.Outcome.next.inj (ht'.symm.trans h)
  exact hcase

/-- From idle only a start answers (R100, R101). -/
theorem exec_idle_next {i : Instr} {s t : State} (hidle : s.phase = .idle) (h : exec i s = .next t) :
    (∃ op, i = op.instr ∧ op.present s.config = true ∧ t = (startFrom op s).start op op.opcode (validate op s)) ∨
    ∃ opcode, t = s.startIllegal opcode := by
  rcases exec_next h with ⟨-, hstart⟩ | ⟨op, hbusy, -⟩ | ⟨op, hbusy, -⟩
  · exact hstart
  · simp [hidle] at hbusy
  · simp [hidle] at hbusy

@[simp] theorem startFrom_mem (op : Op) (s : State) : (startFrom op s).mem = s.mem := by cases op <;> rfl
@[simp] theorem startFrom_werr (op : Op) (s : State) : (startFrom op s).werr = s.werr := by cases op <;> rfl
@[simp] theorem startFrom_irqEn (op : Op) (s : State) : (startFrom op s).irqEn = s.irqEn := by cases op <;> rfl
@[simp] theorem startFrom_emode (op : Op) (s : State) : (startFrom op s).emode = s.emode := by cases op <;> rfl
@[simp] theorem startFrom_kbits (op : Op) (s : State) : (startFrom op s).kbits = s.kbits := by cases op <;> rfl
@[simp] theorem startFrom_config (op : Op) (s : State) : (startFrom op s).config = s.config := by cases op <;> rfl
theorem startFrom_replies (op : Op) (s : State) :
    (startFrom op s).replies = if op = .keygen then [] else s.replies := by cases op <;> rfl

/-- A start, passed or failed, writes no window and leaves `WERR` as it is (R100). -/
theorem exec_idle_keeps {i : Instr} {s t : State} (hidle : s.phase = .idle) (h : exec i s = .next t) :
    t.mem = s.mem ∧ t.werr = s.werr := by
  rcases exec_idle_next hidle h with ⟨op, -, -, rfl⟩ | ⟨opcode, rfl⟩
  · simp
  · simp

theorem completion_werr (op : Op) (s : State) : (completion op s).werr = s.werr := by
  obtain ⟨-, -, hwerr, -⟩ := completion_fields op s
  exact hwerr

theorem completion_irqEn (op : Op) (s : State) : (completion op s).irqEn = s.irqEn := by
  obtain ⟨hirqEn, -⟩ := completion_fields op s
  exact hirqEn

/-- A completion step that leaves the engine busy has waited for the RNG, and changed nothing (R221). -/
theorem completion_eq_self_of_busy {op op' : Op} {s : State} (h : (completion op s).phase = .busy op') :
    completion op s = s := by
  rcases completion_cases op s with ⟨-, -, hwait⟩ | ⟨-, -, hidle, -⟩
  · exact hwait
  · simp [hidle] at h

/-- Settles O28, by the ways `exec` can end (R100, R103, R106): idle after a start that failed its validation or after a
completion step, busy and not done after a start that passed. -/
theorem completionRaisesInterrupt : Obligations.CompletionRaisesInterrupt := by
  unfold Obligations.CompletionRaisesInterrupt
  intro i s t h
  rcases hphase : s.phase with _ | op
  · rcases exec_idle_next hphase h with ⟨op, -, -, rfl⟩ | ⟨opcode, rfl⟩
    · cases hcode : validate op s with
      | ok => simp [State.start_ok, State.irq]
      | _ => simp [State.start_error, State.irq]
    · simp [State.irq]
  · refine ⟨fun hidle => ?_, nofun⟩
    rcases exec_next h with ⟨hp, -⟩ | ⟨op', hp, -, rfl⟩ | ⟨op', hp, -, rfl⟩
    · simp [hphase] at hp
    · rcases completion_cases op' s with ⟨-, -, hwait⟩ | ⟨-, hdone, -, -⟩
      · simp [hwait, hphase] at hidle
      · exact ⟨hdone, by simp [State.irq, hdone, completion_irqEn]⟩
    · simp [hphase] at hidle

end Sys2Proof.Machine
end

section
/-! The invariant of the machine (R102, R153, R156, R188): the operations keep it, and so does every move. -/

namespace Sys2Proof.Machine

/-! ### Nothing but `DONE`, `WERR`, the answers and the other agents (R102, R106) -/

/-- `t` differs from `s` at most in `DONE`, `WERR`, the RNG's answers and the other agents' fields. -/
def Frozen (s t : State) : Prop :=
  t = { s with done := t.done, werr := t.werr, program := t.program, reads := t.reads, turns := t.turns,
               patience := t.patience, replies := t.replies, answers := t.answers, fresh := t.fresh }

theorem SameEngine.frozen {s t : State} (h : SameEngine s t) : Frozen s t := by rw [Frozen, h]

theorem Frozen.trans {s t u : State} (h : Frozen s t) (h' : Frozen t u) : Frozen s u := by
  rw [Frozen, h', h]

theorem frozen_writeStatus (s : State) (w : Word) : Frozen s (s.writeStatus w) := rfl

theorem frozen_dropWrite (s : State) : Frozen s s.dropWrite := rfl

section Frozen
variable {s t : State} (h : Frozen s t)
include h

theorem Frozen.phase_eq : t.phase = s.phase := by rw [h]
theorem Frozen.config_eq : t.config = s.config := by rw [h]
theorem Frozen.memOk_eq : t.memOk = s.memOk := by rw [h]; rfl
theorem Frozen.errcode_eq : t.errcode = s.errcode := by rw [h]
theorem Frozen.lastop_eq : t.lastop = s.lastop := by rw [h]
theorem Frozen.keygenFieldsOk_eq : t.keygenFieldsOk = s.keygenFieldsOk := by rw [h]; rfl
theorem Frozen.validate_eq (op : Op) : validate op t = validate op s := by rw [h]; cases op <;> rfl

end Frozen

/-! ### The invariant in each phase -/

/-- With an idle engine the invariant says nothing of a command, and that no answer is kept (R153). -/
theorem inv_idle_iff {s : State} (hidle : s.phase = .idle) :
    s.Inv = true ↔ s.memOk = true ∧ codeProduced s.errcode = true ∧ s.keygenFieldsOk = true ∧ s.replies = [] := by
  simp [State.Inv, State.busyOk, State.repliesOk, hidle, and_assoc]

/-- With a command in flight the invariant says what R102 says, and bounds the answers given (R156). -/
theorem inv_busy_iff {s : State} {op : Op} (hbusy : s.phase = .busy op) :
    s.Inv = true ↔ s.memOk = true ∧ s.keygenFieldsOk = true ∧
      (s.done = false ∧ s.errcode = 0 ∧ s.lastop = op.opcode ∧ op.present s.config = true ∧ validate op s = .ok) ∧
      (if op = .keygen then s.replies.length ≤ s.config.kgIterCap else s.replies = []) := by
  have hcode : s.errcode = 0 → codeProduced s.errcode = true := fun h => h ▸ codeProduced_bits .ok
  cases op <;> simp [State.Inv, State.busyOk, State.repliesOk, hbusy] <;> tauto

/-- The invariant is kept where the operands are frozen, `DONE` is not set, and the answers are none or more of a
KEYGEN's, within the cap. -/
theorem Frozen.inv {s t : State} (h : Frozen s t) (hs : s.Inv = true) (hdone : s.done = false → t.done = false)
    (hreplies : t.replies = s.replies ∨ (s.phase = .busy .keygen ∧ t.replies.length ≤ s.config.kgIterCap)) :
    t.Inv = true := by
  rcases hphase : s.phase with _ | op
  · have hkept : t.replies = s.replies := hreplies.resolve_right (by simp [hphase])
    rw [inv_idle_iff (h.phase_eq.trans hphase), h.memOk_eq, h.errcode_eq, h.keygenFieldsOk_eq, hkept]
    exact (inv_idle_iff hphase).1 hs
  · obtain ⟨hmem, hfields, ⟨hdone₀, hrest⟩, hr⟩ := (inv_busy_iff hphase).1 hs
    rw [inv_busy_iff (h.phase_eq.trans hphase), h.memOk_eq, h.keygenFieldsOk_eq, h.errcode_eq, h.lastop_eq,
      h.config_eq, h.validate_eq]
    refine ⟨hmem, hfields, ⟨hdone hdone₀, hrest⟩, ?_⟩
    rcases hreplies with hkept | ⟨hkeygen, hcap⟩
    · rwa [hkept]
    · obtain rfl : op = .keygen := by simpa [hphase] using hkeygen
      exact hcap

theorem SameEngine.inv {s t : State} (h : SameEngine s t) (hs : s.Inv = true) : t.Inv = true :=
  h.frozen.inv hs (by rw [h]; exact id) (.inl h.replies_eq)

/-! ### The reset -/

theorem resetEngine_inv (s : State) : s.resetEngine.Inv = true := by
  rw [inv_idle_iff s.resetEngine_phase]
  exact ⟨rfl, codeProduced_bits .ok, by simp [State.keygenFieldsOk], rfl⟩

/-- Settles O44 from `resetEngine_inv`: the reset state is what the reset event leaves of it. -/
theorem resetMeetsInvariant : Obligations.ResetMeetsInvariant := resetEngine_inv State.reset

/-! ### Starts and completions -/

/-- A start changes no operand of the command, so its validation passes again (R102). -/
theorem validate_start_ok (op : Op) (s : State) :
    validate op ((startFrom op s).start op op.opcode .ok) = validate op s := by cases op <;> rfl

/-- A start from a state with the invariant has it: busy with validated operands, or completed with a produced code. -/
theorem start_inv {op : Op} {s : State} (hs : s.Inv = true) (hidle : s.phase = .idle)
    (hop : op.present s.config = true) : ((startFrom op s).start op op.opcode (validate op s)).Inv = true := by
  obtain ⟨hmem, -, hfields, hreplies⟩ := (inv_idle_iff hidle).1 hs
  have hnone : (startFrom op s).replies = [] := by simp [startFrom_replies, hreplies]
  have hmem' : ((startFrom op s).start op op.opcode (validate op s)).memOk = true := by simpa [State.memOk] using hmem
  have hfields' : ((startFrom op s).start op op.opcode (validate op s)).keygenFieldsOk = true := by
    simpa [State.keygenFieldsOk] using hfields
  by_cases hcode : validate op s = .ok
  · rw [hcode] at hmem' hfields' ⊢
    refine (inv_busy_iff (op := op) rfl).2 ⟨hmem', hfields', ⟨rfl, rfl, by simp, by simpa using hop, ?_⟩, ?_⟩
    · rw [validate_start_ok, hcode]
    · simp [hnone]
  · have hstart := State.start_error (startFrom op s) op op.opcode _ hcode
    refine (inv_idle_iff (by rw [hstart])).2 ⟨hmem', ?_, hfields', by simp [hnone]⟩
    rw [hstart]
    exact codeProduced_bits _

/-- Every command written to an idle engine keeps the invariant (R100, R184). -/
theorem exec_idle_inv {i : Instr} {s t : State} (hs : s.Inv = true) (hidle : s.phase = .idle)
    (h : exec i s = .next t) : t.Inv = true := by
  obtain ⟨hmem, -, hfields, hreplies⟩ := (inv_idle_iff hidle).1 hs
  rcases exec_idle_next hidle h with ⟨op, -, hop, rfl⟩ | ⟨opcode, rfl⟩
  · exact start_inv hs hidle hop
  · exact (inv_idle_iff (s.startIllegal_phase opcode)).2 ⟨hmem, codeProduced_bits .illegalCommand, hfields, hreplies⟩

/-- A completion step that does not wait ends with a produced code (R84, R104). -/
theorem completion_errcode (op : Op) (s : State) :
    completion op s = s ∨ ∃ code : Code, (completion op s).errcode = code.bits := by
  cases op with
  | modexp => exact .inr ⟨.ok, rfl⟩
  | keygen =>
    rcases completeKeygen_cases s with ⟨goal, -, h⟩ | ⟨p, q, e, -, h⟩ | ⟨code, -, -, h⟩
    · exact .inl h
    · exact .inr ⟨.ok, by rw [completion, h, State.complete_errcode]⟩
    · exact .inr ⟨code, by rw [completion, h, State.complete_errcode]⟩
  | zeroize => exact .inr ⟨.ok, rfl⟩

/-- The completion step of the command in flight keeps the invariant. -/
theorem completion_inv {op : Op} {s : State} (hs : s.Inv = true) (hbusy : s.phase = .busy op) :
    (completion op s).Inv = true := by
  obtain ⟨hmem, hfields, ⟨-, -, -, hop, -⟩, hr⟩ := (inv_busy_iff hbusy).1 hs
  obtain ⟨-, hemode, -, -, hkbits, hconfig, -⟩ := completion_fields op s
  rcases completion_cases op s with ⟨-, -, hwait⟩ | ⟨-, -, hidle, hreplies⟩
  · rwa [hwait]
  · obtain ⟨hwf, -⟩ := (memOk_iff s).1 hmem
    refine (inv_idle_iff hidle).2 ⟨?_, ?_, ?_, ?_⟩
    · exact memOk_of_frame hmem hconfig (completion_wf op s hwf) fun a => read_completion_of_not_backed hwf hop
    · rcases completion_errcode op s with hsame | ⟨code, hcode⟩
      · simp [hsame, hbusy] at hidle
      · rw [hcode]; exact codeProduced_bits code
    · rwa [State.keygenFieldsOk, hconfig, hemode, hkbits]
    · rw [hreplies]
      split
      · rfl
      · next hne => rwa [if_neg hne] at hr

/-! ### Bus writes -/

/-- `EMODE` and `KBITS` still hold 0 without the key generator where nothing changes them then (R53). -/
theorem keygenFieldsOk_of_absent {s t : State} (hs : s.keygenFieldsOk = true) (hconfig : t.config = s.config)
    (h : s.config.hasKeygen = false → t.emode = s.emode ∧ t.kbits = s.kbits) : t.keygenFieldsOk = true := by
  unfold State.keygenFieldsOk at hs ⊢
  rw [hconfig]
  cases hk : s.config.hasKeygen
  · obtain ⟨hemode, hkbits⟩ := h hk
    rwa [hemode, hkbits, ← hk]
  · rfl

/-- A bus write keeps the invariant: busy it changes `DONE` and `WERR` only, idle a register, a word of a host-writable
window, or it starts a command (R58). -/
theorem busWrite_inv {off : Offset} {w : Word} {s t : State} (hs : s.Inv = true) (h : busWrite off w s = .next t) :
    t.Inv = true := by
  rcases busWrite_next h with ⟨-, rfl⟩ | ⟨-, -, rfl⟩ | ⟨-, hidle, hcase⟩
  · exact (frozen_writeStatus s w).inv hs (by simp +contextual) (.inl rfl)
  · exact (frozen_dropWrite s).inv hs id (.inl rfl)
  · obtain ⟨hmem, hcode, hfields, hreplies⟩ := (inv_idle_iff hidle).1 hs
    rcases hcase with rfl | ⟨-, rfl⟩ | ⟨-, rfl⟩ | ⟨-, rfl⟩ | ⟨W, o, htarget, hW, ho, rfl⟩ | ⟨-, hexec⟩
    · exact hs
    · refine (inv_idle_iff (s := s.writeCtrl w) hidle).2 ⟨hmem, hcode, ?_, hreplies⟩
      exact keygenFieldsOk_of_absent hfields rfl fun hk => by simp [hk]
    · exact (inv_idle_iff (s := s.writeLen w) hidle).2 ⟨hmem, hcode, hfields, hreplies⟩
    · refine (inv_idle_iff (s := s.writeKbits w) hidle).2 ⟨hmem, hcode, ?_, hreplies⟩
      exact keygenFieldsOk_of_absent hfields rfl fun hk => by simp [hk]
    · obtain ⟨hwf, -⟩ := (memOk_iff s).1 hmem
      obtain ⟨halign, -, -⟩ := target_window htarget
      refine (inv_idle_iff (s := s.setWinWord W o w) hidle).2 ⟨?_, hcode, hfields, hreplies⟩
      exact memOk_of_frame hmem rfl (wf_setWin s W o 4 (laneByte w) hwf) fun a ha =>
        read_setWinWord_outside w hwf halign ho (outside_of_not_backed ha (present_of_hostWritable hW _))
    · exact exec_idle_inv hs hidle hexec

/-- Settles O43, by the moves: each keeps the invariant. -/
theorem stepKeepsInvariant : Obligations.StepKeepsInvariant := by
  unfold Obligations.StepKeepsInvariant
  intro s t hs h
  have hmove := step_move h
  generalize (takeTurn s).1 = a at hmove
  cases hmove with
  | quiet same => exact same.inv hs
  | write stmt hoff same hwrite => exact busWrite_inv (same.inv hs) hwrite
  | complete same hphase => exact completion_inv (same.inv hs) (same.phase_eq.trans hphase)
  | answer same hreq =>
    obtain ⟨hkeygen, -, hroom⟩ := request_some hreq
    exact Frozen.inv rfl (same.inv hs) id (.inr ⟨hkeygen, by simpa using hroom⟩)
  | reset same => exact resetEngine_inv _

end Sys2Proof.Machine
end

section
/-! The registers on the bus (R51, R58, R85): which offset is which register, and the words as numbers. -/

namespace Sys2Proof.Machine

/-! ### The register map (R51) -/

/-- Offset `a` selects a register exactly where the map places it. -/
theorem targetAt_register_iff (a : Nat) :
    (targetAt a = .id ↔ a = 0x000) ∧ (targetAt a = .cfg ↔ a = 0x004) ∧ (targetAt a = .cmd ↔ a = 0x00C) ∧
    (targetAt a = .status ↔ a = 0x010) := by
  by_cases ha : a < 0x1000
  · rw [targetAt, if_pos ha, registerAt]
    split_ifs <;> simp <;> omega
  · rw [targetAt, if_neg ha]
    split_ifs <;> simp <;> omega

theorem target_eq_id_iff {off : Offset} : target off = .id ↔ off.toNat / 4 * 4 = 0x000 :=
  (targetAt_register_iff _).1

theorem target_eq_cfg_iff {off : Offset} : target off = .cfg ↔ off.toNat / 4 * 4 = 0x004 :=
  (targetAt_register_iff _).2.1

theorem target_eq_cmd_iff {off : Offset} : target off = .cmd ↔ off.toNat / 4 * 4 = 0x00C :=
  (targetAt_register_iff _).2.2.1

theorem target_eq_status_iff {off : Offset} : target off = .status ↔ off.toNat / 4 * 4 = 0x010 :=
  (targetAt_register_iff _).2.2.2

/-! ### Writes (R23 to R27, R58) -/

theorem isBusy_of_busy {s : State} {op : Op} (h : s.phase = .busy op) : s.isBusy = true := (isBusy_iff s).2 ⟨op, h⟩

theorem isBusy_of_idle {s : State} (h : s.phase = .idle) : s.isBusy = false := (isBusy_eq_false_iff s).2 h

theorem busWrite_status {off : Offset} (h : target off = .status) (w : Word) (s : State) :
    busWrite off w s = .next (s.writeStatus w) := by
  rw [busWrite, if_pos h]

/-- While idle a write other than of `STATUS` has its target's effect (R58). -/
theorem busWrite_idle {off : Offset} (h : target off ≠ .status) (w : Word) {s : State} (hidle : s.phase = .idle) :
    busWrite off w s = idleWrite (target off) w s := by
  rw [busWrite, if_neg h, isBusy_of_idle hidle]
  rfl

/-- While busy a write other than of `STATUS` is dropped (R58). -/
theorem busWrite_busy {off : Offset} (h : target off ≠ .status) (w : Word) {s : State} {op : Op}
    (hbusy : s.phase = .busy op) : busWrite off w s = .next s.dropWrite := by
  rw [busWrite, if_neg h, isBusy_of_busy hbusy]
  rfl

/-- Settles O29: `STATUS` is the one target whose write is not dropped. -/
theorem busyDropsWrites : Obligations.BusyDropsWrites := by
  unfold Obligations.BusyDropsWrites
  intro off w s op hbusy
  exact ⟨fun hoff => busWrite_busy (mt target_eq_status_iff.1 hoff) w hbusy,
    fun hoff => busWrite_status (target_eq_status_iff.2 hoff) w s⟩

/-- The low half of a word, as a number (R26, R27). -/
theorem extractLsb'_eq_ofNat (w : Word) : w.extractLsb' 0 16 = BitVec.ofNat 16 w.toNat := by
  apply BitVec.eq_of_toNat_eq
  simp

/-- Settles O35: each register's write rule at its offset. -/
theorem registerWrites : Obligations.RegisterWrites := by
  unfold Obligations.RegisterWrites
  intro w s hidle
  refine ⟨busWrite_status rfl w s, ?_, fun hk => ⟨?_, ?_⟩⟩
  · rw [busWrite_idle (by decide) w hidle, ← extractLsb'_eq_ofNat]
    rfl
  · rw [busWrite_idle (by decide) w hidle, show target 0x008 = .ctrl by decide]
    simp [idleWrite, State.writeCtrl, hk]
  · rw [busWrite_idle (by decide) w hidle, show target 0x018 = .kbits by decide, ← extractLsb'_eq_ofNat]
    simp [idleWrite, State.writeKbits, hk]

/-! ### The words registers read as (R21 to R27, R85) -/

theorem bitWord_toNat (b : Bool) : (bitWord b).toNat = b.toNat := by cases b <;> rfl

/-- A field put above the low bits of a word adds its number. -/
theorem shiftLeft_or_toNat {x y : Word} {k a b : Nat} (hx : x.toNat = a) (hy : y.toNat = b)
    (ha : a * 2 ^ k < 2 ^ 32) (hb : b < 2 ^ k) : ((x <<< k) ||| y).toNat = a * 2 ^ k + b := by
  rw [BitVec.toNat_or, BitVec.toNat_shiftLeft, Nat.shiftLeft_eq, hx, hy, Nat.mod_eq_of_lt ha, Nat.mul_comm,
    Nat.two_pow_add_eq_or_of_lt hb]

/-- `CFG` by its fields (R22). -/
theorem cfgWord_toNat (c : Config) : (cfgWord c).toNat = c.maxlen + 65536 * c.hasKeygen.toNat := by
  have hmax := maxlen_le c
  have hbit := c.hasKeygen.toNat_le
  have hlen : (BitVec.ofNat 32 c.maxlen).toNat = c.maxlen := Nat.mod_eq_of_lt (by omega)
  rw [cfgWord, BitVec.or_comm, shiftLeft_or_toNat (bitWord_toNat _) hlen (by omega) (by omega)]
  omega

/-- `CTRL` by its fields (R23). -/
theorem ctrlWord_toNat (s : State) :
    s.ctrlWord.toNat = s.irqEn.toNat + 2 * (s.emode && s.config.hasKeygen).toNat := by
  have hemode := (s.emode && s.config.hasKeygen).toNat_le
  have hirqEn := s.irqEn.toNat_le
  rw [State.ctrlWord, BitVec.or_comm, shiftLeft_or_toNat (bitWord_toNat _) (bitWord_toNat _) (by omega) (by omega)]
  omega

theorem isBusy_toNat (s : State) : s.isBusy.toNat = if s.phase = .idle then 0 else 1 := by
  unfold State.isBusy
  cases s.phase <;> rfl

/-- `STATUS` by its fields (R85). -/
theorem statusWord_toNat (s : State) :
    s.statusWord.toNat = 256 * s.lastop.toNat + 16 * s.errcode.toNat + 4 * s.werr.toNat + 2 * s.done.toNat
      + s.isBusy.toNat := by
  have hlastop : (s.lastop.setWidth 32).toNat = s.lastop.toNat := BitVec.toNat_setWidth_of_le (by decide)
  have herrcode : (s.errcode.setWidth 32).toNat = s.errcode.toNat := BitVec.toNat_setWidth_of_le (by decide)
  have hlastop_lt := s.lastop.isLt
  have herrcode_lt := s.errcode.isLt
  have hwerr := s.werr.toNat_le
  have hdone := s.done.toNat_le
  have hbusy := s.isBusy.toNat_le
  have from_done := shiftLeft_or_toNat (k := 1) (bitWord_toNat s.done) (bitWord_toNat s.isBusy) (by omega) (by omega)
  have from_werr := shiftLeft_or_toNat (k := 2) (bitWord_toNat s.werr) from_done (by omega) (by omega)
  have from_errcode := shiftLeft_or_toNat (k := 4) herrcode from_werr (by omega) (by omega)
  have from_lastop := shiftLeft_or_toNat (k := 8) hlastop from_errcode (by omega) (by omega)
  rw [State.statusWord, BitVec.or_assoc, BitVec.or_assoc, BitVec.or_assoc, from_lastop]
  omega

/-- Settles O34: each offset selects its register, whose word has the number of its fields. -/
theorem registerReadValues : Obligations.RegisterReadValues := by
  unfold Obligations.RegisterReadValues
  intro off s
  have hoff : ∀ n : Nat, off.toNat = n → off = BitVec.ofNat 16 n := by
    rintro n rfl
    simp
  refine ⟨fun h => ?_, fun h => ?_, fun h => ?_, fun h => ?_, fun h => ?_, fun h => ?_, fun h hk => ?_⟩ <;>
    obtain rfl := hoff _ h
  · rfl
  · exact cfgWord_toNat s.config
  · exact ctrlWord_toNat s
  · rfl
  · rw [← isBusy_toNat]
    exact statusWord_toNat s
  · exact BitVec.toNat_setWidth_of_le (by decide)
  · show s.kbitsWord.toNat = s.kbits.toNat
    rw [State.kbitsWord, if_pos hk, BitVec.toNat_setWidth_of_le (by decide)]

/-! ### After a reset (R35) -/

theorem resetEngine_win (s : State) (W : Window) (i : Nat) : s.resetEngine.win W i = 0 := rfl

theorem resetEngine_statusWord (s : State) : s.resetEngine.statusWord = 0 :=
  BitVec.eq_of_toNat_eq (by rw [statusWord_toNat]; rfl)

theorem resetEngine_ctrlWord (s : State) : s.resetEngine.ctrlWord = 0 :=
  BitVec.eq_of_toNat_eq (by rw [ctrlWord_toNat]; rfl)

/-- After a reset every offset but those of `ID` and `CFG` reads 0. -/
theorem busRead_resetEngine {off : Offset} {s : State} (hid : target off ≠ .id) (hcfg : target off ≠ .cfg) :
    busRead off s.resetEngine = 0 := by
  unfold busRead
  cases htarget : target off with
  | id => exact absurd htarget hid
  | cfg => exact absurd htarget hcfg
  | ctrl => exact resetEngine_ctrlWord s
  | cmd => rfl
  | status => exact resetEngine_statusWord s
  | len => rfl
  | kbits => simp [State.kbitsWord]
  | window W o => simp [State.readWindow, State.winWord, resetEngine_win]
  | unmapped => rfl

/-- Settles O41: `ID` and `CFG` keep their constants, and `busRead_resetEngine` covers every other offset. -/
theorem resetReadValues : Obligations.ResetReadValues := by
  unfold Obligations.ResetReadValues
  refine ⟨fun s => ⟨fun off => ?_, resetEngine_statusWord s, rfl, rfl, rfl, rfl, resetEngine_win s, rfl, rfl, rfl⟩,
    rfl⟩
  split
  · next hid => rw [busRead, target_eq_id_iff.2 hid]; rfl
  · next hid =>
    split
    · next hcfg => rw [busRead, target_eq_cfg_iff.2 hcfg]; exact cfgWord_toNat s.config
    · next hcfg =>
      rw [busRead_resetEngine (mt target_eq_id_iff.1 hid) (mt target_eq_cfg_iff.1 hcfg)]
      rfl

end Sys2Proof.Machine
end

section
/-! What a step changes (R28, R31, R34, R102): the operands of a command in flight, the bytes of a window, `WERR`. -/

namespace Sys2Proof.Machine

/-! ### While a command is in flight (R102, R106) -/

/-- While busy a bus write changes at most `DONE` and `WERR` (R106). -/
theorem busWrite_busy_frozen {off : Offset} {w : Word} {s t : State} {op : Op} (hbusy : s.phase = .busy op)
    (h : busWrite off w s = .next t) : Frozen s t ∧ t.replies = s.replies := by
  rcases busWrite_next h with ⟨-, rfl⟩ | ⟨-, -, rfl⟩ | ⟨-, hidle, -⟩
  · exact ⟨frozen_writeStatus s w, rfl⟩
  · exact ⟨frozen_dropWrite s, rfl⟩
  · simp [hbusy] at hidle

/-- Settles O46, by the moves: a bus write is dropped or clears `STATUS` bits, a completion step that stays busy has
waited, and the RNG adds its answer. -/
theorem operandsFrozenWhileBusy : Obligations.OperandsFrozenWhileBusy := by
  unfold Obligations.OperandsFrozenWhileBusy
  intro s t op op' hbusy h hbusy'
  have hmove := step_move h
  generalize (takeTurn s).1 = a at hmove ⊢
  cases hmove with
  | quiet same => exact ⟨same.frozen, .inl same.replies_eq⟩
  | write stmt hoff same hwrite =>
    obtain ⟨hfrozen, hreplies⟩ := busWrite_busy_frozen (same.phase_eq.trans hbusy) hwrite
    exact ⟨same.frozen.trans hfrozen, .inl (hreplies.trans same.replies_eq)⟩
  | complete same hphase =>
    rw [completion_eq_self_of_busy hbusy']
    exact ⟨same.frozen, .inl same.replies_eq⟩
  | @answer goal reply s' same hreq =>
    exact ⟨same.frozen.trans rfl, .inr ⟨rfl, reply, by rw [same.replies_eq]⟩⟩
  | reset same => simp at hbusy'

/-! ### Who writes a window (R28) -/

/-- A byte of one window is outside every other (R28). -/
theorem outside_other_window {W V : Window} (hne : W ≠ V) {c : Config} {i : Nat} (hi : i < c.maxlen) :
    W.base + i < V.base ∨ V.base + c.maxlen ≤ W.base + i := by
  have hmax := maxlen_le c
  by_contra hin
  have heq : W.base + i = V.base + (W.base + i - V.base) := by omega
  exact hne ((base_add_inj (by omega) (by omega)).1 heq).1

/-- A completion step changes bytes only of the windows R28 names for its command. -/
theorem completion_win_ne {op : Op} {s : State} (hm : s.mem.wf = true) {W : Window} {i : Nat} (hi : i < s.config.maxlen)
    (h : (completion op s).win W i ≠ s.win W i) :
    (op = .modexp ∧ W = .r) ∨ (op = .keygen ∧ (W = .n ∨ W = .eOut ∨ W = .dOut)) ∨ op = .zeroize := by
  cases op with
  | modexp =>
    refine .inl ⟨rfl, ?_⟩
    by_contra hne
    exact h (read_completeModexp_outside hm (outside_other_window hne hi))
  | keygen =>
    refine .inr (.inl ⟨rfl, ?_⟩)
    by_contra hne
    refine h (read_completeKeygen_outside hm fun V hV => outside_other_window ?_ hi)
    rintro rfl
    exact hne (by simpa using hV)
  | zeroize => exact .inr (.inr rfl)

/-- A bus write changes a window's byte only while idle, and only of a window the host may write (R58). -/
theorem busWrite_win_ne {off : Offset} {w : Word} {s t : State} (hm : s.mem.wf = true) {W : Window} {i : Nat}
    (hi : i < s.config.maxlen) (hwrite : busWrite off w s = .next t) (h : t.win W i ≠ s.win W i) :
    s.phase = .idle ∧ W.hostWritable = true := by
  rcases busWrite_next hwrite with ⟨-, rfl⟩ | ⟨-, -, rfl⟩ | ⟨-, hidle, hcase⟩
  · exact absurd rfl h
  · exact absurd rfl h
  · refine ⟨hidle, ?_⟩
    rcases hcase with rfl | ⟨-, rfl⟩ | ⟨-, rfl⟩ | ⟨-, rfl⟩ | ⟨V, o, htarget, hV, ho, rfl⟩ | ⟨-, hexec⟩
    · exact absurd rfl h
    · exact absurd rfl h
    · exact absurd rfl h
    · exact absurd rfl h
    · obtain ⟨halign, -, -⟩ := target_window htarget
      obtain rfl : W = V := by
        by_contra hne
        exact h (read_setWinWord_outside w hm halign ho (outside_other_window hne hi))
      exact hV
    · obtain ⟨hmem, -⟩ := exec_idle_keeps hidle hexec
      exact absurd (by rw [State.win, hmem, State.win]) h

/-- Settles O48, by the moves. -/
theorem windowWriters : Obligations.WindowWriters := by
  unfold Obligations.WindowWriters
  intro s t W i hm hi h hne
  have hmove := step_move h
  generalize (takeTurn s).1 = a at hmove ⊢
  cases hmove with
  | quiet same => exact absurd (by rw [same.win_eq]) hne
  | write stmt hoff same hwrite =>
    rw [← same.win_eq] at hne
    obtain ⟨hidle, hW⟩ := busWrite_win_ne (same.mem_eq ▸ hm) (same.config_eq ▸ hi) hwrite hne
    exact .inl ⟨same.phase_eq ▸ hidle, hW, rfl⟩
  | complete same hphase =>
    rw [← same.win_eq] at hne
    rcases completion_win_ne (same.mem_eq ▸ hm) (same.config_eq ▸ hi) hne with ⟨rfl, hW⟩ | ⟨rfl, hW⟩ | rfl
    · exact .inr (.inl ⟨hphase, hW, rfl⟩)
    · exact .inr (.inr (.inl ⟨hphase, hW, rfl⟩))
    · exact .inr (.inr (.inr (.inl ⟨hphase, rfl⟩)))
  | answer same hreq => exact absurd (by rw [← same.win_eq]; rfl) hne
  | reset same => exact .inr (.inr (.inr (.inr rfl)))

/-! ### `WERR` (R25, R34) -/

/-- A bus write clears `WERR` only as a write of `STATUS` with bit 2 set (R25). -/
theorem busWrite_clears_werr {off : Offset} {w : Word} {s t : State} (hset : s.werr = true)
    (hwrite : busWrite off w s = .next t) (hclear : t.werr = false) :
    target off = .status ∧ w.getLsbD 2 = true := by
  rcases busWrite_next hwrite with ⟨htarget, rfl⟩ | ⟨-, -, rfl⟩ | ⟨-, hidle, hcase⟩
  · exact ⟨htarget, by simpa [hset] using hclear⟩
  · simp at hclear
  · have hkept : t.werr = s.werr := by
      rcases hcase with rfl | ⟨-, rfl⟩ | ⟨-, rfl⟩ | ⟨-, rfl⟩ | ⟨W, o, -, -, -, rfl⟩ | ⟨-, hexec⟩
      · rfl
      · rfl
      · rfl
      · rfl
      · rfl
      · exact (exec_idle_keeps hidle hexec).2
    simp [hkept, hset] at hclear

/-- Settles O49, by the moves: of those that are not a reset, only a bus write of the host clears `WERR`. -/
theorem writeErrorIsSticky : Obligations.WriteErrorIsSticky := by
  unfold Obligations.WriteErrorIsSticky
  intro s t hset h hclear
  have hmove := step_move h
  generalize (takeTurn s).1 = a at hmove ⊢
  cases hmove with
  | quiet same => simp [same.werr_eq, hset] at hclear
  | write stmt hoff same hwrite =>
    obtain ⟨htarget, hw⟩ := busWrite_clears_werr (same.werr_eq.trans hset) hwrite hclear
    exact .inr ⟨rfl, _, _, _, _, stmt, hoff, target_eq_status_iff.1 htarget, hw⟩
  | complete same hphase => simp [completion_werr, same.werr_eq, hset] at hclear
  | answer same hreq => simp [same.werr_eq, hset] at hclear
  | reset same => exact .inl rfl

/-! ### The host's and the reset input's turns (R86, R210) -/

/-- Settles O40: the listed turn resets the engine, and an idle engine requests nothing. -/
theorem resetEvent : Obligations.ResetEvent := by
  unfold Obligations.ResetEvent
  intro s turns hturns
  exact ⟨_, step_listed hturns, rfl, rfl, rfl, rngStep_of_request_eq_none rfl⟩

theorem hostRead_inside {addr : Nat} {off : Offset} {s : State} (h : offsetOf s.config addr = some off) :
    hostRead addr s = (busRead off s, s) := by
  simp [hostRead, h]

/-- A `WR` to the block is a bus write at its offset, with the statement done (R86). -/
theorem hostStep_write {addr : Nat} {w : Word} {rest : List HostStmt} {off : Offset} {s : State}
    (hprog : s.program = .wr addr w :: rest) (hoff : offsetOf s.config addr = some off) :
    hostStep s = busWrite off w { s with program := rest } := by
  simp [hostStep, hprog, hostWrite, hoff]

/-- Settles O37: the turn and the statement taken, the write reaches `CMD` of an idle engine, which decodes the word. -/
theorem stepRunsDecodedCommand : Obligations.StepRunsDecodedCommand := by
  unfold Obligations.StepRunsDecodedCommand
  intro s turns addr off w rest hturns hprog hoff hcmd hidle
  have htarget : target off = .cmd := target_eq_cmd_iff.2 hcmd
  calc step s = hostStep { s with turns := turns } := step_listed hturns
    _ = busWrite off w { s with turns := turns, program := rest } := hostStep_write hprog hoff
    _ = idleWrite (target off) w { s with turns := turns, program := rest } :=
      busWrite_idle (by simp [htarget]) w hidle
    _ = exec (decode s.config.hasKeygen w) { s with turns := turns, program := rest } := by rw [htarget]; rfl

/-- Settles O39: each statement's arm of `hostStep`, with the read inside the block free of side effects. -/
theorem hostReadsPollsAndWaits : Obligations.HostReadsPollsAndWaits := by
  unfold Obligations.HostReadsPollsAndWaits
  intro s addr off mask value rest hoff
  have hread := hostRead_inside hoff
  refine ⟨fun hprog => ?_, fun hprog => ?_, fun hprog => ?_⟩
  · simp [hostStep, hprog, hread]
  · by_cases hmatch : busRead off s &&& mask = value
    · simp [hostStep, hprog, hread, hmatch]
    · simp only [hostStep, hprog, hread, hmatch, if_false]
      rw [← hprog]
  · cases hirq : s.done && s.irqEn
    · simp only [hostStep, hprog, State.irq, hirq, Bool.false_eq_true, if_false]
      rw [← hprog]
    · simp only [hostStep, hprog, State.irq, hirq, if_true]

end Sys2Proof.Machine
end

section
/-! MODEXP depends only on the operands' bytes below `L` (R29, R126). -/

namespace Sys2Proof.Machine

/-- A window that agrees below `L` has the same operand value (R29). -/
theorem val_withMem {s : State} {m : Memory} {W : Window} {L : Nat}
    (h : ∀ i, i < L → (s.withMem m).win W i = s.win W i) : (s.withMem m).val W L = s.val W L :=
  beValue_congr h

/-- The bytes of the window an output write writes do not depend on what was there (R30). -/
theorem win_put_self (s : State) (W : Window) (L v i : Nat) (hm : s.mem.wf = true) (hi : i < s.config.maxlen) :
    (s.put W L v).win W i = if i < L then beByte L v i else 0 := by
  have hmax := maxlen_le s.config
  have hmin := Nat.min_le_right L s.config.maxlen
  rw [State.put, win_setWin _ _ _ _ _ _ _ (wf_clearWin s W hm) (by omega) (by omega),
    win_clearWin _ _ _ _ hm (by omega)]
  simp [hi]

/-- From idle MODEXP starts with the outcome of its validation (R100, R120). -/
theorem exec_modexp_idle {s : State} (hidle : s.phase = .idle) :
    exec .modexp s = .next (s.start .modexp 0x1 (validateModexp s)) := by
  simp [exec, execModexp, hidle]

/-- Every byte of `R` after MODEXP: the result's `L` bytes, then zeros (R30, R120). -/
theorem completeModexp_win_r {s : State} (hm : s.mem.wf = true) {i : Nat} (hi : i < s.config.maxlen) :
    (completeModexp s).win .r i = if i < s.opLen then beByte s.opLen (modexpResult s) i else 0 :=
  win_put_self s .r s.opLen (modexpResult s) i hm hi

/-- Settles O9: validation and result are functions of the operand values, and the output write determines every byte
of `R`. -/
theorem modexpIgnoresOperandTails : Obligations.ModexpIgnoresOperandTails := by
  unfold Obligations.ModexpIgnoresOperandTails
  intro s m hs hm hagree
  have hx : (s.withMem m).opX = s.opX := val_withMem (hagree .x rfl)
  have hk : (s.withMem m).opK = s.opK := val_withMem (hagree .k rfl)
  have hn : (s.withMem m).opN = s.opN := val_withMem (hagree .n rfl)
  have hL : (s.withMem m).opLen = s.opLen := rfl
  constructor
  · intro hidle t ht
    have hcode : validateModexp (s.withMem m) = validateModexp s := by
      simp only [validateModexp, hx, hn, hL, State.withMem_config]
    obtain rfl := Host.Outcome.next.inj ((exec_modexp_idle hidle).symm.trans ht)
    rw [exec_modexp_idle (s := s.withMem m) hidle, hcode]
    congr 1
    cases validateModexp s <;> rfl
  · intro hbusy t ht
    have hresult : modexpResult (s.withMem m) = modexpResult s := by
      simp only [modexpResult, hx, hk, hn, hL]
    obtain rfl := completion_of_exec (op := .modexp) hbusy ht
    refine ⟨_, exec_inFlight .modexp (s.withMem m) hbusy, ?_, fun i hi => ?_⟩
    · exact completeModexp_shape (s.withMem m)
    · rw [completion, completion, completeModexp_win_r (s := s.withMem m) hm hi, completeModexp_win_r hs hi,
        hresult, hL]

end Sys2Proof.Machine
end

section
/-! Every access and every step answers a next state (R52, R62), with the bits an access ignores (R52); and a cleared
`DONE` before and after a completion (R190). -/

namespace Sys2Proof.Machine

/-! ### Accesses and steps (R52, R180) -/

/-- Offsets of the same word select the same target (R52). -/
theorem target_congr {off off' : Offset} (h : off.toNat / 4 = off'.toNat / 4) : target off = target off' := by
  simp only [target, alignedOffset, h]

/-- Settles O31: accesses see an offset only through its target, and `busWrite_cases` has no fault among its cases. -/
theorem lowOffsetBitsIgnored : Obligations.LowOffsetBitsIgnored := by
  unfold Obligations.LowOffsetBitsIgnored
  intro off off' w s hword
  have htarget := target_congr hword
  refine ⟨by rw [busRead, htarget, busRead], by rw [busWrite, htarget, busWrite], ?_⟩
  obtain ⟨t, ht, -⟩ := busWrite_cases off w s
  exact ⟨t, ht⟩

/-- Settles O42 from `step_cases`, whose every case answers a next state. -/
theorem everyStepHasNext : Obligations.EveryStepHasNext := by
  unfold Obligations.EveryStepHasNext
  intro s
  obtain ⟨t, ht, -⟩ := step_cases s
  exact ⟨t, ht⟩

/-! ### `DONE` cleared around a completion (R190) -/

/-- A `STATUS` write does not touch the request on the RNG port. -/
theorem writeStatus_request (s : State) (w : Word) : (s.writeStatus w).request = s.request := rfl

/-- Settles O50: the completion sets `DONE` whatever the write did before, and the write clears it whatever set it. -/
theorem clearAndCompletionInEitherOrder : Obligations.ClearAndCompletionInEitherOrder := by
  unfold Obligations.ClearAndCompletionInEitherOrder
  intro s op w hbusy hreq hclear
  have hwrite : ∀ t : State, busWrite 0x010 w t = .next (t.writeStatus w) := busWrite_status rfl w
  constructor
  · have hbusy' : (s.writeStatus w).phase = .busy op := hbusy
    exact ⟨_, _, hwrite s, exec_inFlight op _ hbusy', completion_ends hbusy' ((writeStatus_request s w).trans hreq)⟩
  · obtain ⟨-, hidle⟩ := completion_ends hbusy hreq
    exact ⟨_, _, exec_inFlight op s hbusy, hwrite _, by simp [hclear], hidle⟩

end Sys2Proof.Machine
end

section
/-! A window's word on the bus (R54, R58): where it stands, its lanes, and what a write of it leaves. -/

namespace Sys2Proof.Machine

/-! ### The words and their lanes (R54) -/

theorem laneByte_toNat (w : Word) (i : Nat) : (laneByte w i).toNat = w.toNat / 2 ^ (24 - 8 * i) % 2 ^ 8 := by
  rw [laneByte, BitVec.extractLsb'_toNat, Nat.shiftRight_eq_div_pow]

/-- A byte put below a bit vector, as numbers. -/
theorem append_byte_toNat {n : Nat} (x : BitVec n) (b : Byte) : (x ++ b).toNat = x.toNat * 2 ^ 8 + b.toNat := by
  rw [BitVec.toNat_append, Nat.shiftLeft_eq, Nat.mul_comm, Nat.two_pow_add_eq_or_of_lt b.isLt]

/-- The word of a window as a number: its four bytes, big-endian (R54). -/
theorem winWord_toNat (s : State) (W : Window) (o : Nat) :
    (s.winWord W o).toNat = (s.win W o).toNat * 2 ^ 24 + (s.win W (o + 1)).toNat * 2 ^ 16
      + (s.win W (o + 2)).toNat * 2 ^ 8 + (s.win W (o + 3)).toNat := by
  rw [State.winWord, append_byte_toNat, append_byte_toNat, append_byte_toNat]
  omega

/-- The bytes of a word just written are its lanes (R54). -/
theorem win_setWinWord {s : State} (W : Window) {o : Nat} (w : Word) (hm : s.mem.wf = true) {i : Nat} (hi : i < 4) :
    (s.setWinWord W o w).win W (o + i) = laneByte w i := by
  rw [State.win, State.setWinWord_mem, Memory.read_fill _ _ _ _ _ hm, if_pos (by omega)]
  congr 1
  omega

/-- A word just written reads back (R54). -/
theorem winWord_setWinWord {s : State} (W : Window) (o : Nat) (w : Word) (hm : s.mem.wf = true) :
    (s.setWinWord W o w).winWord W o = w := by
  have lane : ∀ i, i < 4 → (s.setWinWord W o w).win W (o + i) = laneByte w i := fun i => win_setWinWord W w hm
  have lane_zero : (s.setWinWord W o w).win W o = laneByte w 0 := lane 0 (by decide)
  rw [State.winWord, lane_zero, lane 1 (by decide), lane 2 (by decide), lane 3 (by decide)]
  exact laneByte_append w

/-- A word written changes its four bytes only. -/
theorem read_setWinWord_other {s : State} (W : Window) (o : Nat) (w : Word) (hm : s.mem.wf = true) {a : Nat}
    (ha : a < W.base + o ∨ W.base + o + 4 ≤ a) : (s.setWinWord W o w).mem.read a = s.mem.read a := by
  rw [State.setWinWord_mem, Memory.read_fill _ _ _ _ _ hm, if_neg (by omega)]

/-- A word is written in memory only. -/
theorem setWinWord_shape (s : State) (W : Window) (o : Nat) (w : Word) :
    s.setWinWord W o w = { s with mem := (s.setWinWord W o w).mem } := rfl

/-! ### The accesses to a window while idle (R58) -/

/-- Every offset of a window's aligned word selects that word (R51, R52). -/
theorem target_eq_window {off : Offset} {W : Window} {o : Nat} (ho : o < 4096)
    (hoff : off.toNat / 4 * 4 = W.base + o) : target off = .window W o := by
  rw [target, alignedOffset, hoff, targetAt_window W o ho]

theorem base_mod_four (W : Window) : W.base % 4 = 0 := by cases W <;> rfl

theorem busRead_window_idle {off : Offset} {W : Window} {o : Nat} {s : State} (htarget : target off = .window W o)
    (hidle : s.phase = .idle) (ho : o < s.config.maxlen) (hW : W.present s.config.hasKeygen = true) :
    busRead off s = s.winWord W o := by
  simp [busRead, htarget, State.readWindow, hW, isBusy_of_idle hidle, Nat.not_le.2 ho]

theorem busWrite_window_idle {off : Offset} {W : Window} {o : Nat} {s : State} (htarget : target off = .window W o)
    (hidle : s.phase = .idle) (ho : o < s.config.maxlen) (hW : W.hostWritable = true) (w : Word) :
    busWrite off w s = .next (s.setWinWord W o w) := by
  rw [busWrite_idle (by simp [htarget]) w hidle, htarget, idleWrite, State.writeWindow, if_pos ⟨hW, ho⟩]

/-- Settles O32: the offset selects the window's word, whose lanes are the bytes `winWord_toNat` and `win_setWinWord`
name. -/
theorem windowWordLanes : Obligations.WindowWordLanes := by
  unfold Obligations.WindowWordLanes
  intro W o off s hidle hm halign ho hoff
  have hmax := maxlen_le s.config
  have hbase := base_mod_four W
  have htarget : target off = .window W o := target_eq_window (by omega) (by omega)
  refine ⟨fun hW => ?_, fun hW w => ?_⟩
  · rw [busRead_window_idle htarget hidle ho hW, winWord_toNat]
  · have lane : ∀ i, i < 4 →
        ((s.setWinWord W o w).win W (o + i)).toNat = w.toNat / 2 ^ (24 - 8 * i) % 2 ^ 8 := fun i hi => by
      rw [win_setWinWord W w hm hi, laneByte_toNat]
    refine ⟨s.setWinWord W o w, busWrite_window_idle htarget hidle ho hW w, ?_, ?_, lane 1 (by decide),
      lane 2 (by decide), ?_, setWinWord_shape s W o w, fun a => read_setWinWord_other W o w hm⟩
    · rw [busRead_window_idle (s := s.setWinWord W o w) htarget hidle ho (present_of_hostWritable hW _),
        winWord_setWinWord W o w hm]
    · have hlane : ((s.setWinWord W o w).win W o).toNat = w.toNat / 2 ^ 24 % 2 ^ 8 := lane 0 (by decide)
      rw [hlane]
      have := w.isLt
      omega
    · simpa using lane 3 (by decide)

end Sys2Proof.Machine
end

section
/-! What the bus has no storage for (R53): offsets that read 0 and ignore writes, and the reserved bits of the
registers. -/

namespace Sys2Proof.Machine

/-! ### Offsets that read 0 or ignore writes -/

/-- The engine stores nothing there: it is unmapped, from `MAXLEN` on, or in a window the engine does not have (R53). -/
def Target.Unstored (c : Config) : Target → Prop
  | .unmapped => True
  | .window W o => c.maxlen ≤ o ∨ W.present c.hasKeygen = false
  | _ => False

/-- The host cannot write there, because the register or window is read-only or nothing is stored (R28, R53, R58). -/
def Target.ReadOnly (c : Config) : Target → Prop
  | .id | .cfg | .unmapped => True
  | .window W o => c.maxlen ≤ o ∨ W.hostWritable = false
  | _ => False

theorem hostWritable_eq_false_of_absent {W : Window} {hk : Bool} (h : W.present hk = false) :
    W.hostWritable = false := by
  by_contra hW
  simp [present_of_hostWritable (by simpa using hW) hk] at h

theorem Target.Unstored.readOnly {c : Config} {T : Target} (h : T.Unstored c) : T.ReadOnly c := by
  cases T with
  | unmapped => trivial
  | window W o => exact h.imp_right hostWritable_eq_false_of_absent
  | _ => exact h.elim

/-- What is not stored reads 0 (R53). -/
theorem busRead_unstored {off : Offset} {s : State} (h : (target off).Unstored s.config) : busRead off s = 0 := by
  unfold busRead
  generalize target off = T at h
  cases T with
  | unmapped => rfl
  | window W o => exact if_pos h
  | _ => exact h.elim

theorem exists_busy_of_ne_idle {s : State} (h : s.phase ≠ .idle) : ∃ op, s.phase = .busy op :=
  (isBusy_iff s).1 (by simpa using mt (isBusy_eq_false_iff s).1 h)

theorem Target.ReadOnly.ne_status {c : Config} {T : Target} (h : T.ReadOnly c) : T ≠ .status := by
  rintro rfl
  exact h

/-- While idle a write of what the host cannot write is ignored (R53, R58). -/
theorem busWrite_readOnly_idle {off : Offset} {s : State} (h : (target off).ReadOnly s.config)
    (hidle : s.phase = .idle) (w : Word) : busWrite off w s = .next s := by
  rw [busWrite_idle h.ne_status w hidle]
  generalize target off = T at h
  cases T with
  | id | cfg | unmapped => rfl
  | window W o =>
    refine congrArg Host.Outcome.next (if_neg ?_)
    rintro ⟨hW, ho⟩
    rcases h with hmax | hno
    · omega
    · simp [hW] at hno
  | _ => exact h.elim

/-! ### Where they are in the map (R51) -/

theorem targetAt_unmapped {a : Nat} (h : (0x01C ≤ a ∧ a < 0x1000) ∨ 0x7000 ≤ a) : targetAt a = .unmapped := by
  rcases h with ⟨hlo, hhi⟩ | hhi
  · rw [targetAt, if_pos hhi, registerAt]
    iterate 7 rw [if_neg (by omega)]
  · rw [targetAt]
    iterate 7 rw [if_neg (by omega)]

/-- From 0x1000 to 0x7000 each 4 KiB is a window's, and the offset in it is the rest (R51). -/
theorem targetAt_window_range {a : Nat} (hlo : 0x1000 ≤ a) (hhi : a < 0x7000) :
    ∃ W : Window, W.base = a / 0x1000 * 0x1000 ∧ targetAt a = .window W (a % 0x1000) := by
  have hbase : ∃ W : Window, W.base = a / 0x1000 * 0x1000 := by
    have h1 : 1 ≤ a / 0x1000 := by omega
    have h6 : a / 0x1000 < 7 := by omega
    generalize a / 0x1000 = k at h1 h6
    interval_cases k
    · exact ⟨.x, rfl⟩
    · exact ⟨.k, rfl⟩
    · exact ⟨.n, rfl⟩
    · exact ⟨.r, rfl⟩
    · exact ⟨.eOut, rfl⟩
    · exact ⟨.dOut, rfl⟩
  obtain ⟨W, hW⟩ := hbase
  refine ⟨W, hW, ?_⟩
  rw [← targetAt_window W (a % 0x1000) (Nat.mod_lt _ (by decide)), hW, Nat.div_add_mod']

/-- The windows the host may not write are those from `R` on (R28). -/
theorem hostWritable_eq_false_of_base {W : Window} (h : 0x4000 ≤ W.base) : W.hostWritable = false := by
  cases W <;> revert h <;> decide

/-- The windows of the key generator are those from `E_OUT` on (R28). -/
theorem absent_of_base {W : Window} (h : 0x5000 ≤ W.base) : W.present false = false := by
  cases W <;> revert h <;> decide

/-- The offsets R53 lists have nothing stored. -/
theorem targetAt_unstored {c : Config} {a : Nat}
    (h : (0x01C ≤ a ∧ a < 0x1000) ∨ 0x7000 ≤ a ∨ (0x1000 ≤ a ∧ a < 0x7000 ∧ c.maxlen ≤ a % 0x1000) ∨
      (0x5000 ≤ a ∧ a < 0x7000 ∧ c.hasKeygen = false)) : (targetAt a).Unstored c := by
  rcases h with hreg | hhigh | ⟨hlo, hhi, hmax⟩ | ⟨hlo, hhi, hk⟩
  · rw [targetAt_unmapped (.inl hreg)]; trivial
  · rw [targetAt_unmapped (.inr hhigh)]; trivial
  · obtain ⟨W, -, htarget⟩ := targetAt_window_range hlo hhi
    rw [htarget]
    exact .inl hmax
  · obtain ⟨W, hbase, htarget⟩ := targetAt_window_range (by omega) hhi
    rw [htarget]
    exact .inr (hk ▸ absent_of_base (by omega))

/-- `ID`, `CFG`, `R`, `E_OUT` and `D_OUT` are read-only (R28, R58). -/
theorem targetAt_readOnly {c : Config} {a : Nat} (h : a = 0x000 ∨ a = 0x004 ∨ (0x4000 ≤ a ∧ a < 0x7000)) :
    (targetAt a).ReadOnly c := by
  rcases h with rfl | rfl | ⟨hlo, hhi⟩
  · trivial
  · trivial
  · obtain ⟨W, hbase, htarget⟩ := targetAt_window_range (by omega) hhi
    rw [htarget]
    exact .inr (hostWritable_eq_false_of_base (by omega))

/-! ### The bits of a word that a register has (R22, R23, R25 to R27) -/

/-- Words equal modulo `2^n` have the same bits below `n`. -/
theorem getLsbD_eq_of_mod {w w' : Word} {n : Nat} (h : w'.toNat % 2 ^ n = w.toNat % 2 ^ n) {i : Nat} (hi : i < n) :
    w'.getLsbD i = w.getLsbD i := by
  have hbit : ∀ v : Word, v.getLsbD i = (v.toNat % 2 ^ n).testBit i := fun v => by
    simp [Nat.testBit_mod_two_pow, hi, BitVec.getLsbD]
  rw [hbit w', h, ← hbit w]

/-- Words equal modulo `2^16` have the same low half. -/
theorem lowHalf_eq_of_mod {w w' : Word} (h : w'.toNat % 2 ^ 16 = w.toNat % 2 ^ 16) :
    w'.extractLsb' 0 16 = w.extractLsb' 0 16 := by
  apply BitVec.eq_of_toNat_eq
  simpa using h

theorem cfgWord_lt (c : Config) : (cfgWord c).toNat < 2 ^ 17 := by
  have hmax := maxlen_le c
  have hbit := c.hasKeygen.toNat_le
  rw [cfgWord_toNat]
  omega

theorem ctrlWord_lt (s : State) : s.ctrlWord.toNat < 4 := by
  have hemode := (s.emode && s.config.hasKeygen).toNat_le
  have hirqEn := s.irqEn.toNat_le
  rw [ctrlWord_toNat]
  omega

theorem lenWord_lt (s : State) : s.lenWord.toNat < 2 ^ 16 := by
  rw [State.lenWord, BitVec.toNat_setWidth_of_le (by decide)]
  exact s.len.isLt

theorem kbitsWord_lt (s : State) : s.kbitsWord.toNat < 2 ^ 16 := by
  unfold State.kbitsWord
  split
  · rw [BitVec.toNat_setWidth_of_le (by decide)]
    exact s.kbits.isLt
  · decide

theorem statusWord_lt (s : State) : s.statusWord.toNat < 2 ^ 12 := by
  have hlastop := s.lastop.isLt
  have herrcode := s.errcode.isLt
  have hwerr := s.werr.toNat_le
  have hdone := s.done.toNat_le
  have hbusy := s.isBusy.toNat_le
  rw [statusWord_toNat]
  omega

/-- Bit 3 of `STATUS` is between `WERR` and `ERRCODE` and has no field (R85). -/
theorem statusWord_bit_three (s : State) : s.statusWord.getLsbD 3 = false := by
  have hwerr := s.werr.toNat_le
  have hdone := s.done.toNat_le
  have hbusy := s.isBusy.toNat_le
  rw [BitVec.getLsbD, statusWord_toNat, Nat.testBit_eq_decide_div_mod_eq, decide_eq_false_iff_not]
  omega

/-- Without the key generator bit 1 of `CTRL` reads 0 (R23). -/
theorem ctrlWord_bit_one {s : State} (hk : s.config.hasKeygen = false) : s.ctrlWord.getLsbD 1 = false := by
  have hirqEn := s.irqEn.toNat_le
  rw [BitVec.getLsbD, ctrlWord_toNat, hk, Bool.and_false, Nat.testBit_eq_decide_div_mod_eq, decide_eq_false_iff_not]
  simp only [Bool.toNat_false]
  omega

/-- Without the key generator `KBITS` reads 0 (R27). -/
theorem kbitsWord_of_absent {s : State} (hk : s.config.hasKeygen = false) : s.kbitsWord = 0 :=
  if_neg (by simp [hk])

theorem writeCtrl_congr {w w' : Word} (h : w'.toNat % 4 = w.toNat % 4) (s : State) :
    s.writeCtrl w' = s.writeCtrl w := by
  have hirqEn : w'.getLsbD 0 = w.getLsbD 0 := getLsbD_eq_of_mod (n := 2) h (by decide)
  have hemode : w'.getLsbD 1 = w.getLsbD 1 := getLsbD_eq_of_mod (n := 2) h (by decide)
  rw [State.writeCtrl, hirqEn, hemode, State.writeCtrl]

theorem writeStatus_congr {w w' : Word} (hdone : w'.getLsbD 1 = w.getLsbD 1) (hwerr : w'.getLsbD 2 = w.getLsbD 2)
    (s : State) : s.writeStatus w' = s.writeStatus w := by
  rw [State.writeStatus, hdone, hwerr, State.writeStatus]

theorem writeLen_congr {w w' : Word} (h : w'.toNat % 2 ^ 16 = w.toNat % 2 ^ 16) (s : State) :
    s.writeLen w' = s.writeLen w := by
  rw [State.writeLen, lowHalf_eq_of_mod h, State.writeLen]

theorem writeKbits_congr {w w' : Word} (h : w'.toNat % 2 ^ 16 = w.toNat % 2 ^ 16) (s : State) :
    s.writeKbits w' = s.writeKbits w := by
  rw [State.writeKbits, lowHalf_eq_of_mod h, State.writeKbits]

/-- Without the key generator a write of `CTRL` writes `IRQ_EN` only (R23). -/
theorem writeCtrl_of_absent {s : State} (hk : s.config.hasKeygen = false) (w : Word) :
    s.writeCtrl w = { s with irqEn := w.getLsbD 0 } := by
  simp [State.writeCtrl, hk]

/-- Without the key generator a write of `KBITS` is ignored (R27). -/
theorem writeKbits_of_absent {s : State} (hk : s.config.hasKeygen = false) (w : Word) : s.writeKbits w = s := by
  simp [State.writeKbits, hk]

/-! ### Every register at its offset (R51, R58) -/

theorem target_of_offset {off : Offset} {a : Nat} (h : a = off.toNat / 4 * 4) : target off = targetAt a := by
  rw [h]
  rfl

section
variable {off : Offset} {s : State}

theorem busRead_cfg (h : target off = .cfg) : busRead off s = cfgWord s.config := by rw [busRead, h]
theorem busRead_ctrl (h : target off = .ctrl) : busRead off s = s.ctrlWord := by rw [busRead, h]
theorem busRead_status (h : target off = .status) : busRead off s = s.statusWord := by rw [busRead, h]
theorem busRead_len (h : target off = .len) : busRead off s = s.lenWord := by rw [busRead, h]
theorem busRead_kbits (h : target off = .kbits) : busRead off s = s.kbitsWord := by rw [busRead, h]

theorem busWrite_ctrl_idle (h : target off = .ctrl) (hidle : s.phase = .idle) (w : Word) :
    busWrite off w s = .next (s.writeCtrl w) := by
  rw [busWrite_idle (by simp [h]) w hidle, h]
  rfl

theorem busWrite_len_idle (h : target off = .len) (hidle : s.phase = .idle) (w : Word) :
    busWrite off w s = .next (s.writeLen w) := by
  rw [busWrite_idle (by simp [h]) w hidle, h]
  rfl

theorem busWrite_kbits_idle (h : target off = .kbits) (hidle : s.phase = .idle) (w : Word) :
    busWrite off w s = .next (s.writeKbits w) := by
  rw [busWrite_idle (by simp [h]) w hidle, h]
  rfl

end

/-- Settles O33: the map places the offsets without storage and the read-only ones, and each register's word and write
rule leave out its reserved bits. -/
theorem reservedReadsZeroWritesIgnored : Obligations.ReservedReadsZeroWritesIgnored := by
  unfold Obligations.ReservedReadsZeroWritesIgnored
  intro off w s a ha
  have htarget := target_of_offset ha
  refine ⟨fun h => ?unstored, fun h => ?readOnly, ?cfg, ?ctrl, fun h => ?lenKbits, ?status,
    fun hk => ⟨?noKbits, ?noEmode⟩⟩
  case unstored =>
    have hunstored : (target off).Unstored s.config := htarget ▸ targetAt_unstored h
    refine ⟨busRead_unstored hunstored, fun hidle => busWrite_readOnly_idle hunstored.readOnly hidle w,
      fun hbusy => ?_⟩
    obtain ⟨op, hop⟩ := exists_busy_of_ne_idle hbusy
    exact busWrite_busy hunstored.readOnly.ne_status w hop
  case readOnly => exact fun hidle => busWrite_readOnly_idle (htarget ▸ targetAt_readOnly h) hidle w
  case cfg =>
    rintro rfl
    rw [busRead_cfg htarget]
    exact cfgWord_lt s.config
  case ctrl =>
    rintro rfl
    refine ⟨busRead_ctrl htarget ▸ ctrlWord_lt s, fun hidle w' hw => ?_⟩
    rw [busWrite_ctrl_idle htarget hidle, busWrite_ctrl_idle htarget hidle, writeCtrl_congr hw]
  case lenKbits =>
    rcases h with rfl | rfl
    · refine ⟨busRead_len htarget ▸ lenWord_lt s, fun hidle w' hw => ?_⟩
      rw [busWrite_len_idle htarget hidle, busWrite_len_idle htarget hidle, writeLen_congr hw]
    · refine ⟨busRead_kbits htarget ▸ kbitsWord_lt s, fun hidle w' hw => ?_⟩
      rw [busWrite_kbits_idle htarget hidle, busWrite_kbits_idle htarget hidle, writeKbits_congr hw]
  case status =>
    rintro rfl
    refine ⟨busRead_status htarget ▸ statusWord_lt s, busRead_status htarget ▸ statusWord_bit_three s,
      fun w' hdone hwerr => ?_⟩
    rw [busWrite_status htarget, busWrite_status htarget, writeStatus_congr hdone hwerr]
  case noKbits =>
    rintro rfl
    refine ⟨(busRead_kbits htarget).trans (kbitsWord_of_absent hk), fun hidle => ?_⟩
    rw [busWrite_kbits_idle htarget hidle, writeKbits_of_absent hk]
  case noEmode =>
    rintro rfl
    refine ⟨busRead_ctrl htarget ▸ ctrlWord_bit_one hk, fun hidle => ?_⟩
    rw [busWrite_ctrl_idle htarget hidle, writeCtrl_of_absent hk]

end Sys2Proof.Machine
end

section
/-! Command words (R80 to R82): the decoder inverts the encoder, every word is the encoding of one well-formed
instruction, and what a word's number says of it. Then the two ends of a start from idle (R100): at once, of an illegal
word, and busy, of a command that passes its validation. -/

namespace Sys2Proof.Machine

/-! ### The fields of a word (R80) -/

theorem rsvdField_commandWord (rsvd : BitVec 28) (opcode : BitVec 4) : rsvdField (commandWord rsvd opcode) = rsvd :=
  (Laws.Fields.illegal rsvd opcode).2

theorem opcodeField_commandWord (rsvd : BitVec 28) (opcode : BitVec 4) :
    opcodeField (commandWord rsvd opcode) = opcode :=
  (Laws.Fields.illegal rsvd opcode).1

/-- A word is made of its two fields: no bit is outside them. -/
theorem commandWord_fields (w : Word) : commandWord (rsvdField w) (opcodeField w) = w :=
  (BitVec.extractLsb'_append_extractLsb'_eq_extractLsb' rfl).trans BitVec.extractLsb'_eq_self

theorem rsvdField_eq_ofNat (w : Word) : rsvdField w = BitVec.ofNat 28 (w.toNat / 16) := by
  apply BitVec.eq_of_toNat_eq
  simp [rsvdField, Nat.shiftRight_eq_div_pow]

theorem opcodeField_eq_ofNat (w : Word) : opcodeField w = BitVec.ofNat 4 (w.toNat % 16) := by
  apply BitVec.eq_of_toNat_eq
  simp [opcodeField]

/-- The fields that are not illegal are those of the three commands (R81, R82). -/
theorem illegalFields_eq_false {hk : Bool} {rsvd : BitVec 28} {opcode : BitVec 4}
    (h : illegalFields hk rsvd opcode = false) :
    rsvd = 0 ∧ (opcode = 0x1 ∨ (opcode = 0x2 ∧ hk = true) ∨ opcode = 0x3) := by
  simp only [illegalFields, Bool.or_eq_false_iff, bne_eq_false_iff_eq, beq_eq_false_iff_ne, decide_eq_false_iff_not,
    Bool.and_eq_false_iff, Bool.not_eq_false'] at h
  obtain ⟨⟨⟨hr, hzero⟩, hlt⟩, htwo⟩ := h
  refine ⟨hr, ?_⟩
  have hcases : opcode = 0x1 ∨ opcode = 0x2 ∨ opcode = 0x3 := by bv_omega
  rcases hcases with ho | ho | ho
  · exact .inl ho
  · exact .inr (.inl ⟨ho, htwo.resolve_left (absurd ho)⟩)
  · exact .inr (.inr ho)

/-! ### The decoder and the encoder -/

/-- A word with illegal fields decodes to the illegal class with these fields (R82). -/
theorem decode_of_illegalFields {hk : Bool} {w : Word} (h : illegalFields hk (rsvdField w) (opcodeField w) = true) :
    decode hk w = .illegal (rsvdField w) (opcodeField w) := by
  unfold decode
  split_ifs with hrsvd hmodexp hkeygen hzeroize
  · rfl
  · simp [illegalFields, not_not.1 hrsvd, hmodexp] at h
  · simp [illegalFields, not_not.1 hrsvd, hkeygen.1, hkeygen.2] at h
  · simp [illegalFields, not_not.1 hrsvd, hzeroize] at h
  · rfl

/-- Settles O3: a command's word is one word, and an illegal instruction's word has the instruction's fields. -/
theorem decodeOfEncode : Obligations.DecodeOfEncode := by
  unfold Obligations.DecodeOfEncode
  intro hk i hwf
  cases i with
  | modexp => rfl
  | keygen =>
    obtain rfl : hk = true := hwf
    rfl
  | zeroize => rfl
  | illegal rsvd opcode =>
    have hr := rsvdField_commandWord rsvd opcode
    have ho := opcodeField_commandWord rsvd opcode
    have h := decode_of_illegalFields (hk := hk) (w := commandWord rsvd opcode) (by rw [hr, ho]; exact hwf)
    rwa [hr, ho] at h

/-- A word that encodes a well-formed instruction decodes to it. -/
theorem decode_of_encode_eq {hk : Bool} {i : Instr} {w : Word} (hwf : i.wellFormed hk = true) (hw : encode i = w) :
    decode hk w = i :=
  hw ▸ decodeOfEncode hk i hwf

/-- The encoder reaches every word from a well-formed instruction. -/
theorem exists_wellFormed_encode (hk : Bool) (w : Word) : ∃ i : Instr, i.wellFormed hk = true ∧ encode i = w := by
  have hw := commandWord_fields w
  cases hf : illegalFields hk (rsvdField w) (opcodeField w) with
  | true => exact ⟨.illegal _ _, hf, hw⟩
  | false =>
    obtain ⟨hr, ho | ⟨ho, rfl⟩ | ho⟩ := illegalFields_eq_false hf <;> rw [hr, ho] at hw
    · exact ⟨.modexp, rfl, hw⟩
    · exact ⟨.keygen, rfl, hw⟩
    · exact ⟨.zeroize, rfl, hw⟩

/-- Settles O4: decoding gives back the well-formed instruction that the word encodes. -/
theorem encodeOfDecode : Obligations.EncodeOfDecode := by
  unfold Obligations.EncodeOfDecode
  intro hk w
  obtain ⟨i, hwf, hw⟩ := exists_wellFormed_encode hk w
  rw [decode_of_encode_eq hwf hw]
  exact ⟨hwf, hw⟩

/-- Settles O1: each word is the encoding of a well-formed instruction. -/
theorem opcodeMapWords : Obligations.OpcodeMapWords :=
  ⟨fun _ => decode_of_encode_eq (i := .modexp) rfl rfl, decode_of_encode_eq (i := .keygen) rfl rfl,
    decode_of_encode_eq (i := .illegal 0 0x2) rfl rfl, fun _ => decode_of_encode_eq (i := .zeroize) rfl rfl,
    fun _ => decode_of_encode_eq (i := .illegal 0 0x0) rfl rfl,
    fun _ => decode_of_encode_eq (i := .illegal 0 0xF) rfl rfl,
    fun _ => decode_of_encode_eq (i := .illegal 0x0000001 0x1) rfl rfl,
    fun _ => decode_of_encode_eq (i := .illegal 0x8000000 0x1) rfl rfl⟩

/-! ### The illegal class by the word's number (R82, R184) -/

/-- A word of 16 or more has a `RSVD` field other than 0. -/
theorem decode_of_sixteen_le {hk : Bool} {w : Word} (h : 16 ≤ w.toNat) :
    decode hk w = .illegal (BitVec.ofNat 28 (w.toNat / 16)) (BitVec.ofNat 4 (w.toNat % 16)) := by
  have hr : rsvdField w ≠ 0#28 := by
    rw [rsvdField_eq_ofNat]
    bv_omega
  rw [decode_of_illegalFields (by simp [illegalFields, hr]), rsvdField_eq_ofNat, opcodeField_eq_ofNat]

/-- A word below 16 whose number is no opcode of a command. -/
theorem decode_of_illegal_opcode {hk : Bool} {w : Word} (h : w.toNat = 0 ∨ (4 ≤ w.toNat ∧ w.toNat < 16)) :
    decode hk w = .illegal 0 (BitVec.ofNat 4 w.toNat) := by
  have hr : rsvdField w = 0 := by rw [rsvdField_eq_ofNat, Nat.div_eq_of_lt (by omega)]; rfl
  have ho : opcodeField w = BitVec.ofNat 4 w.toNat := by rw [opcodeField_eq_ofNat, Nat.mod_eq_of_lt (by omega)]
  have hf : illegalFields hk (rsvdField w) (opcodeField w) = true := by
    rw [hr, ho]
    rcases h with h | ⟨hlo, hhi⟩
    · rw [h]; rfl
    · simp [illegalFields, Nat.mod_eq_of_lt hhi, hlo]
  rw [decode_of_illegalFields hf, hr, ho]

/-- From idle, an illegal word completes at once with code 4 (R184). -/
theorem exec_illegal_idle (rsvd : BitVec 28) (opcode : BitVec 4) {s : State} (hidle : s.phase = .idle) :
    exec (.illegal rsvd opcode) s = .next { s with done := true, errcode := 4, lastop := opcode } := by
  have hstart : s.startIllegal opcode = { s with done := true, errcode := 4, lastop := opcode } := by
    apply State.ext <;> simp [hidle]
  simp only [exec, execIllegal, hidle, hstart]

/-- Settles O2: 16 and more has a `RSVD` field, 1 to 3 are the commands' words, and the rest has no command's opcode. -/
theorem decodeIsTotalByFields : Obligations.DecodeIsTotalByFields := by
  unfold Obligations.DecodeIsTotalByFields
  refine ⟨fun hk w => ⟨decode_of_sixteen_le, fun h => ?one, fun h => ?two, fun h => ?three,
    decode_of_illegal_opcode⟩, fun rsvd opcode s => exec_illegal_idle rsvd opcode⟩
  case one =>
    obtain rfl : w = 1 := BitVec.eq_of_toNat_eq h
    exact decode_of_encode_eq (i := .modexp) rfl rfl
  case two =>
    obtain rfl : w = 2 := BitVec.eq_of_toNat_eq h
    cases hk with
    | true => exact decode_of_encode_eq (i := .keygen) rfl rfl
    | false => exact decode_of_encode_eq (i := .illegal 0 0x2) rfl rfl
  case three =>
    obtain rfl : w = 3 := BitVec.eq_of_toNat_eq h
    exact decode_of_encode_eq (i := .zeroize) rfl rfl

/-! ### A start that passes its validation (R100 to R102) -/

/-- A start ends busy only with its own command and a validation that gave 0. -/
theorem start_phase_busy {s : State} {op op' : Op} {opcode : BitVec 4} {code : Code}
    (h : (s.start op opcode code).phase = .busy op') : op = op' ∧ code = .ok := by
  by_cases hcode : code = .ok
  · subst hcode
    exact ⟨Phase.busy.inj h, rfl⟩
  · rw [State.start_error _ _ _ _ hcode] at h
    cases h

/-- A start begins with no answers of an earlier KEYGEN, and with everything else as it was (R144). -/
theorem startFrom_eq (op : Op) (s : State) :
    startFrom op s = { s with replies := if op = .keygen then [] else s.replies } := by
  cases op <;> rfl

/-- Settles O26: of what `exec` can answer from idle, only a start that passes its validation is busy. -/
theorem startFrame : Obligations.StartFrame := by
  unfold Obligations.StartFrame
  intro i s t op hidle hexec hbusy
  rcases exec_idle_next hidle hexec with ⟨op', hi, hpresent, rfl⟩ | ⟨opcode, rfl⟩
  · obtain ⟨rfl, hok⟩ := start_phase_busy hbusy
    refine ⟨hi, hpresent, hok, ?_⟩
    rw [hok, State.start_ok, startFrom_eq]
  · cases hbusy

end Sys2Proof.Machine
end

section
/-! A command in flight and the turns (R103, R105, R221): the engine's turn is its completion step, what KEYGEN's
completion step writes, and why it comes after finitely many steps. -/

namespace Sys2Proof.Machine

/-! ### The engine's turn (R103, R200) -/

theorem engineStep_idle {s : State} (hidle : s.phase = .idle) : engineStep s = .next s := by
  rw [engineStep, hidle]

theorem engineStep_busy {op : Op} {s : State} (hbusy : s.phase = .busy op) : engineStep s = exec op.instr s := by
  rw [engineStep, hbusy]

/-- Settles O38: the listed turn is `engineStep`, which runs the command in flight. -/
theorem stepCompletesCommandInFlight : Obligations.StepCompletesCommandInFlight := by
  unfold Obligations.StepCompletesCommandInFlight
  intro s turns hturns
  have hstep : step s = engineStep { s with turns := turns } := step_listed hturns
  exact ⟨fun op hbusy => hstep.trans (engineStep_busy hbusy), fun hidle => hstep.trans (engineStep_idle hidle)⟩

/-! ### KEYGEN's outputs (R151) -/

/-- An output write keeps the bytes of every other window (R28, R30). -/
theorem win_put_other {s : State} {W V : Window} (L v : Nat) (hm : s.mem.wf = true) (hne : V ≠ W) {i : Nat}
    (hi : i < s.config.maxlen) : (s.put W L v).win V i = s.win V i :=
  read_put_outside s W L v (V.base + i) hm (outside_other_window hne hi)

/-- Every byte of `N`, `E_OUT` and `D_OUT` after a key is output: the value's bytes, then zeros (R30, R151). -/
theorem win_putKey {s : State} (p q e : Nat) (hm : s.mem.wf = true) {i : Nat} (hi : i < s.config.maxlen) :
    (s.putKey p q e).win .n i = (if i < keyLen s.keyBits then beByte (keyLen s.keyBits) (p * q) i else 0) ∧
    (s.putKey p q e).win .eOut i = (if i < keyLen s.keyBits then beByte (keyLen s.keyBits) e i else 0) ∧
    (s.putKey p q e).win .dOut i
      = if i < keyLen s.keyBits then beByte (keyLen s.keyBits) (modInv e (totient p q)) i else 0 := by
  have hm₁ := wf_put s .n (keyLen s.keyBits) (p * q) hm
  have hm₂ := wf_put (s.put .n (keyLen s.keyBits) (p * q)) .eOut (keyLen s.keyBits) e hm₁
  refine ⟨?_, ?_, win_put_self _ .dOut _ _ i hm₂ hi⟩
  · calc (s.putKey p q e).win .n i
        = ((s.put .n (keyLen s.keyBits) (p * q)).put .eOut (keyLen s.keyBits) e).win .n i :=
          win_put_other _ _ hm₂ (by decide) hi
      _ = (s.put .n (keyLen s.keyBits) (p * q)).win .n i := win_put_other _ _ hm₁ (by decide) hi
      _ = _ := win_put_self s .n _ _ i hm hi
  · calc (s.putKey p q e).win .eOut i
        = ((s.put .n (keyLen s.keyBits) (p * q)).put .eOut (keyLen s.keyBits) e).win .eOut i :=
          win_put_other _ _ hm₂ (by decide) hi
      _ = _ := win_put_self _ .eOut _ _ i hm₁ hi

/-- The windows a key is output to hold 0 past its `ceil(K/8)` bytes (R151). -/
theorem win_putKey_tail {s : State} (p q e : Nat) (hm : s.mem.wf = true) {i : Nat} (hi : i < s.config.maxlen)
    (htail : keyLen s.keyBits ≤ i) : ∀ W ∈ [Window.n, .eOut, .dOut], (s.putKey p q e).win W i = 0 := by
  obtain ⟨hn, he, hd⟩ := win_putKey p q e hm hi
  rw [if_neg (by omega)] at hn he hd
  simp [hn, he, hd]

/-- What KEYGEN's completion step changes when it does not wait (R151 to R153): memory, `LEN`, `STATUS`, the phase and
the answers. -/
theorem completeKeygen_shape (s : State) : completeKeygen s = s ∨
    completeKeygen s = { s with mem := (completeKeygen s).mem, len := (completeKeygen s).len, done := true,
                                errcode := (completeKeygen s).errcode, phase := .idle, replies := [] } := by
  rcases completeKeygen_cases s with ⟨goal, -, h⟩ | ⟨p, q, e, -, h⟩ | ⟨code, -, -, h⟩
  · exact .inl h
  · refine .inr ?_
    rw [h]
    apply State.ext <;> simp
  · refine .inr ?_
    rw [h]
    rfl

/-- KEYGEN's completion step ends with code 0 only by outputting a key (R151, R152). -/
theorem completeKeygen_success {s : State} (hbusy : s.phase = .busy .keygen) (hidle : (completeKeygen s).phase = .idle)
    (hok : (completeKeygen s).errcode = 0) :
    ∃ p q e, keygenSearch s = .key p q e ∧ completeKeygen s = (s.clearReplies.putKey p q e).complete .ok := by
  rcases completeKeygen_cases s with ⟨goal, -, h⟩ | hkey | ⟨code, -, hcode, h⟩
  · simp [h, hbusy] at hidle
  · exact hkey
  · rw [h, State.complete_errcode, Code.bits_eq_zero] at hok
    simp [hok] at hcode

/-- Settles O14: the shape of the completion step, its frame, and the tails of the outputs of a success. -/
theorem keygenFrame : Obligations.KeygenFrame := by
  unfold Obligations.KeygenFrame
  intro s t hbusy hm ht
  obtain rfl := completion_of_exec (op := .keygen) hbusy ht
  refine ⟨completeKeygen_shape s, fun a => read_completeKeygen_outside hm, fun hidle hok W hW i htail hi => ?_⟩
  obtain ⟨p, q, e, -, hkey⟩ := completeKeygen_success hbusy hidle hok
  rw [completion, hkey]
  exact win_putKey_tail (s := s.clearReplies) p q e hm hi htail W hW

/-! ### No agent's step but taking a turn touches the turns (R62) -/

/-- The turns still listed and the patience after them are those of `s`. -/
def SameSchedule (s t : State) : Prop := t.turns = s.turns ∧ t.patience = s.patience

theorem completion_sameSchedule (op : Op) (s : State) : SameSchedule s (completion op s) := by
  obtain ⟨-, -, -, -, -, -, -, -, hturns, hpatience, -⟩ := completion_fields op s
  exact ⟨hturns, hpatience⟩

theorem exec_sameSchedule {i : Instr} {s t : State} (h : exec i s = .next t) : SameSchedule s t := by
  rcases exec_next h with ⟨-, ⟨op, -, -, rfl⟩ | ⟨opcode, rfl⟩⟩ | ⟨op, -, -, rfl⟩ | ⟨op, -, -, rfl⟩
  · rw [startFrom_eq]
    exact ⟨State.start_turns _ _ _ _, State.start_patience _ _ _ _⟩
  · exact ⟨rfl, rfl⟩
  · exact completion_sameSchedule op s
  · exact ⟨rfl, rfl⟩

theorem busWrite_sameSchedule {off : Offset} {w : Word} {s t : State} (h : busWrite off w s = .next t) :
    SameSchedule s t := by
  rcases busWrite_next h with ⟨-, rfl⟩ | ⟨-, -, rfl⟩ | ⟨-, -, hcase⟩
  · exact ⟨rfl, rfl⟩
  · exact ⟨rfl, rfl⟩
  · rcases hcase with rfl | ⟨-, rfl⟩ | ⟨-, rfl⟩ | ⟨-, rfl⟩ | ⟨W, o, -, -, -, rfl⟩ | ⟨-, hexec⟩
    · exact ⟨rfl, rfl⟩
    · exact ⟨rfl, rfl⟩
    · exact ⟨rfl, rfl⟩
    · exact ⟨s.writeKbits_turns w, s.writeKbits_patience w⟩
    · exact ⟨rfl, rfl⟩
    · exact exec_sameSchedule hexec

theorem hostStep_sameSchedule {s t : State} (h : hostStep s = .next t) : SameSchedule s t := by
  unfold hostStep at h
  split at h
  · cases h; exact ⟨rfl, rfl⟩
  · next addr w rest _ =>
    unfold hostWrite at h
    split at h
    · exact busWrite_sameSchedule (s := { s with program := rest }) h
    · cases h; exact ⟨rfl, rfl⟩
  · next addr rest _ =>
    obtain ⟨f, hf⟩ := hostRead_state addr s
    rw [hf] at h
    cases h; exact ⟨rfl, rfl⟩
  · next addr mask value rest _ =>
    obtain ⟨f, hf⟩ := hostRead_state addr s
    rw [hf] at h
    split at h <;> (cases h; exact ⟨rfl, rfl⟩)
  · split at h <;> (cases h; exact ⟨rfl, rfl⟩)

/-- Every agent's step leaves the order of the turns to come as it is. -/
theorem agentStep_sameSchedule {a : Agent} {s t : State} (h : agentStep a s = .next t) : SameSchedule s t := by
  cases a with
  | host => exact hostStep_sameSchedule h
  | engine =>
    rcases hphase : s.phase with _ | op
    · rw [agentStep, engineStep_idle hphase] at h
      cases h; exact ⟨rfl, rfl⟩
    · exact exec_sameSchedule ((engineStep_busy hphase).symm.trans h)
  | rng =>
    rcases rngStep_cases s with ⟨-, hnone⟩ | ⟨goal, -, hsome⟩
    · rw [agentStep, hnone] at h
      cases h; exact ⟨rfl, rfl⟩
    · rw [agentStep, hsome] at h
      cases h; exact ⟨rfl, rfl⟩
  | reset => cases h; exact ⟨rfl, rfl⟩

/-! ### Weak fairness (R105, R221) -/

/-- What ends a command in flight is the engine's completion step, with `DONE = 1`, or a reset (R104, R210). -/
theorem step_busy_to_idle {op : Op} {s t : State} (hbusy : s.phase = .busy op) (h : step s = .next t)
    (hidle : t.phase = .idle) :
    ((takeTurn s).1 = .engine ∧ t.done = true) ∨ (takeTurn s).1 = .reset := by
  have hmove := step_move h
  generalize (takeTurn s).1 = a at hmove ⊢
  cases hmove with
  | quiet same => simp [same.phase_eq, hbusy] at hidle
  | write stmt hoff same hwrite =>
    have hbusy' := same.phase_eq.trans hbusy
    obtain ⟨hfrozen, -⟩ := busWrite_busy_frozen hbusy' hwrite
    simp [hfrozen.phase_eq, hbusy'] at hidle
  | @complete op' s' same hphase =>
    rcases completion_cases op' s' with ⟨-, -, hwait⟩ | ⟨-, hdone, -⟩
    · simp [hwait, same.phase_eq, hbusy] at hidle
    · exact .inl ⟨rfl, hdone⟩
  | answer same hreq => simp [same.phase_eq, hbusy] at hidle
  | reset same => exact .inr rfl

/-- With the list and the patience used up, the step is the awaited agent's (R105). -/
theorem step_due {s : State} (hturns : s.turns = []) (hpatience : s.patience = 0) :
    step s = agentStep s.awaited { s with patience := Config.freeDelay s.fresh, fresh := s.fresh + 1 } := by
  rw [step, takeTurn_due hturns hpatience]

/-- When the awaited agent's turn is due and the command stays in flight, the RNG has answered one of the requests left
under the cap (R143, R156). -/
theorem step_due_busy {op op' : Op} {s t : State} (hturns : s.turns = []) (hpatience : s.patience = 0)
    (hbusy : s.phase = .busy op) (h : step s = .next t) (hbusy' : t.phase = .busy op') :
    s.replies.length < s.config.kgIterCap ∧ t.replies.length = s.replies.length + 1 := by
  rw [step_due hturns hpatience] at h
  have same : SameEngine s { s with patience := Config.freeDelay s.fresh, fresh := s.fresh + 1 } := rfl
  generalize ({ s with patience := Config.freeDelay s.fresh, fresh := s.fresh + 1 } : State) = s' at h same
  rcases awaited_cases s with ⟨hengine, hnone⟩ | ⟨hrng, goal, hsome⟩
  · have hbusy₁ : s'.phase = .busy op := same.phase_eq.trans hbusy
    rw [hengine, agentStep, engineStep_inFlight hbusy₁] at h
    cases h
    obtain ⟨-, hidle⟩ := completion_ends hbusy₁ (same.request_eq.trans hnone)
    simp [hidle] at hbusy'
  · obtain ⟨-, -, hcap⟩ := request_some hsome
    rw [hrng, agentStep, rngStep_of_request_ne_none (by simp [same.request_eq, hsome])] at h
    cases h
    exact ⟨hcap, by simp [same.replies_eq]⟩

/-- What a busy engine can still be kept waiting by: answers left under the cap, listed turns, patience. -/
def State.waitLeft (s : State) : Nat × Nat × Nat :=
  (s.config.kgIterCap - s.replies.length, s.turns.length, s.patience)

/-- A step that leaves the engine busy uses up one listed turn, some patience, or an answer, after which the turns may
be free again: the measure falls in the lexicographic order. -/
theorem step_waitLeft_lt {op op' : Op} {s t : State} (hbusy : s.phase = .busy op) (h : step s = .next t)
    (hbusy' : t.phase = .busy op') : 
    Prod.Lex (· < ·) (Prod.Lex (· < ·) (· < ·)) t.waitLeft s.waitLeft := by
  obtain ⟨-, hreplies⟩ := operandsFrozenWhileBusy s t op op' hbusy h hbusy'
  have hconfig := parametersNeverChange s t h
  obtain ⟨hturns, hpatience⟩ := agentStep_sameSchedule h
  have hmore : s.replies.length ≤ t.replies.length := by
    rcases hreplies with heq | ⟨-, a, heq⟩ <;> simp [heq]
  simp only [State.waitLeft, hconfig, Prod.lex_def]
  rcases hlist : s.turns with _ | ⟨a, rest⟩
  · rcases hpat : s.patience with _ | n
    · obtain ⟨hcap, hanswer⟩ := step_due_busy hlist hpat hbusy h hbusy'
      omega
    · rw [takeTurn_free hlist hpat] at hturns hpatience
      have hnil : t.turns = [] := hturns.trans hlist
      have hless : t.patience = n := hpatience
      simp only [hnil, hless, true_and]
      omega
  · rw [takeTurn_listed hlist] at hturns
    simp only [hturns, List.length_cons]
    omega

/-- A busy engine's run goes on until a step leaves the busy state: the measure `waitLeft` cannot fall for ever. -/
theorem exists_run_to_end {op : Op} (s : State) (hbusy : s.phase = .busy op) :
    ∃ k u t, core.run k s = .next u ∧ u.phase = .busy op ∧ step u = .next t ∧ t.phase = .idle := by
  obtain ⟨t, ht⟩ := everyStepHasNext s
  rcases hphase : t.phase with _ | op'
  · exact ⟨0, s, t, rfl, hbusy, ht, hphase⟩
  · obtain ⟨hframe, -⟩ := operandsFrozenWhileBusy s t op op' hbusy ht hphase
    have hbusy' : t.phase = .busy op := (Frozen.phase_eq hframe).trans hbusy
    have hless := step_waitLeft_lt hbusy ht hphase
    obtain ⟨k, u, v, hrun, hend⟩ := exists_run_to_end t hbusy'
    exact ⟨k + 1, u, v, (run_succ ht).trans hrun, hend⟩
termination_by s.waitLeft
decreasing_by exact hless

/-- Settles O47: the run ends, and `step_busy_to_idle` says by what. -/
theorem busyEngineCompletes : Obligations.BusyEngineCompletes := by
  unfold Obligations.BusyEngineCompletes
  intro s op hbusy
  obtain ⟨k, u, t, hrun, hu, ht, hidle⟩ := exists_run_to_end s hbusy
  exact ⟨k, u, t, hrun, hu, ht, hidle, step_busy_to_idle hu ht hidle⟩

end Sys2Proof.Machine
end

section
/-! MODEXP's start and its result (R120 to R125): the outcome of each check, and the value left in `R`. -/

namespace Sys2Proof.Machine

/-! ### The start's checks (R121) -/

/-- A MODEXP whose validation gives an error completes with it in the write that starts it (R101, R121). -/
theorem exec_modexp_fails {s : State} (hidle : s.phase = .idle) {code : Code} (hcode : validateModexp s = code)
    (herror : code ≠ .ok) :
    exec .modexp s = .next { s with done := true, errcode := code.bits, lastop := 1 } := by
  rw [exec_modexp_idle hidle, hcode, State.start_error _ _ _ _ herror, ← hidle]

theorem validateModexp_length {s : State} (h : s.opLen = 0 ∨ s.config.maxlen < s.opLen) :
    validateModexp s = .lengthInvalid :=
  if_pos h

section
variable {s : State} (hpos : 1 ≤ s.opLen) (hmax : s.opLen ≤ s.config.maxlen)
include hpos hmax

theorem validateModexp_range (h : s.opN ≤ s.opX) : validateModexp s = .messageOutOfRange := by
  rw [validateModexp, if_neg (by omega), if_pos h]

theorem validateModexp_parity (hrange : s.opX < s.opN) (h : s.opN % 2 = 0) : validateModexp s = .modulusEven := by
  rw [validateModexp, if_neg (by omega), if_neg (by omega), if_pos h]

theorem validateModexp_ok (hrange : s.opX < s.opN) (h : s.opN % 2 = 1) : validateModexp s = .ok := by
  rw [validateModexp, if_neg (by omega), if_neg (by omega), if_neg (by omega)]

end

/-- Settles O5: the start by the outcome of each check of the validation, in their order. -/
theorem modexpStartChecks : Obligations.ModexpStartChecks := by
  unfold Obligations.ModexpStartChecks
  intro s hidle
  refine ⟨fun hlen => exec_modexp_fails hidle (validateModexp_length hlen) (by decide), fun ⟨hpos, hmax⟩ => ?_⟩
  refine ⟨fun hrange => ?_, fun ⟨hrange, heven⟩ => ?_, fun ⟨hrange, hodd⟩ => ?_⟩
  · exact exec_modexp_fails hidle (validateModexp_range hpos hmax hrange) (by decide)
  · exact exec_modexp_fails hidle (validateModexp_parity hpos hmax hrange heven) (by decide)
  · rw [exec_modexp_idle hidle, validateModexp_ok hpos hmax hrange hodd, State.start_ok]

/-! ### The result (R122, R123, R125) -/

/-- A window whose bytes are those of an output write has the value written, where it fits its width (R11, R30). -/
theorem val_eq_of_put_bytes {s : State} {W : Window} {L v M : Nat}
    (hbytes : ∀ i, i < M → s.win W i = if i < L then beByte L v i else 0) (hL : L ≤ M) (hv : v < 256 ^ L) :
    s.val W L = v :=
  calc s.val W L
      = beValue (beByte L v) L := beValue_congr fun i hi => by rw [hbytes i (by omega), if_pos hi]
    _ = v := beValue_beByte L v hv

/-- The value MODEXP's completion leaves in `R` (R122). -/
theorem completeModexp_val_r {s : State} (hm : s.mem.wf = true) (hmax : s.opLen ≤ s.config.maxlen)
    (hrange : s.opX < s.opN) : (completeModexp s).val .r s.opLen = s.opX ^ s.opK % s.opN := by
  have hfits : modexpResult s < 256 ^ s.opLen := by
    rw [modexpResult_eq]
    exact (Nat.mod_lt _ (by omega)).trans (val_lt s .n s.opLen)
  rw [val_eq_of_put_bytes (fun i => completeModexp_win_r hm) hmax hfits, modexpResult_eq]

/-- What a MODEXP in flight leaves in `R`, at the width in `LEN` (R122). -/
theorem exec_modexp_val_r {s t : State} {L : Nat} (hbusy : s.phase = .busy .modexp) (hm : s.mem.wf = true)
    (hlen : s.opLen = L) (hmax : L ≤ s.config.maxlen) (hrange : s.val .x L < s.val .n L)
    (ht : exec .modexp s = .next t) : t.val .r L = s.val .x L ^ s.val .k L % s.val .n L := by
  subst hlen
  obtain rfl := completion_of_exec (op := .modexp) hbusy ht
  exact completeModexp_val_r hm hmax hrange

/-- Settles O6: the value is `completeModexp_val_r`'s, the tail the output write's, and the rest is
`completeModexp_shape`. -/
theorem modexpWritesPowerModN : Obligations.ModexpWritesPowerModN := by
  unfold Obligations.ModexpWritesPowerModN
  intro s hbusy hm _ hmax hrange
  have hval := completeModexp_val_r hm hmax hrange
  refine ⟨completeModexp s, exec_inFlight .modexp s hbusy, hval, ?_, fun i htail hi => ?_, completeModexp_shape s⟩
  · exact hval.trans_lt (Nat.mod_lt _ (Nat.zero_lt_of_lt hrange))
  · exact (completeModexp_win_r hm hi).trans (if_neg (Nat.not_lt.2 htail))

/-- Settles O8: each corner case is a value of `x^k mod n`. -/
theorem modexpCornerCases : Obligations.ModexpCornerCases := by
  unfold Obligations.ModexpCornerCases
  intro s hbusy hm hpos hmax hrange
  obtain ⟨t, ht, hval, -⟩ := modexpWritesPowerModN s hbusy hm hpos hmax hrange
  refine ⟨t, ht, fun hk => ?_, fun hk hn => ?_, fun hn => ?_, fun hx hk => ?_⟩
  · rw [hval, hk, pow_zero]
  · rw [hval, hk, pow_zero, Nat.mod_eq_of_lt (by omega)]
  · rw [hval, hn, Nat.mod_one]
  · rw [hval, hx, zero_pow (by omega), Nat.zero_mod]

end Sys2Proof.Machine
end

section
/-! A generated key with MODEXP (R131): what a successful KEYGEN leaves in its output windows as values, and why the
powers to its two exponents undo each other. -/

namespace Sys2Proof.Machine

/-! ### The exponents undo each other (R131) -/

/-- Fermat's little theorem for every base: a power to one more than a multiple of `p - 1` is the base. -/
theorem pow_succ_modEq_self {p m : Nat} (hp : p.Prime) (hm : p - 1 ∣ m) (x : Nat) : x ^ (m + 1) ≡ x [MOD p] := by
  by_cases hx : p ∣ x
  · have hpow : p ∣ x ^ (m + 1) := hx.trans (dvd_pow_self x (Nat.succ_ne_zero m))
    exact (Nat.modEq_zero_iff_dvd.2 hpow).trans (Nat.modEq_zero_iff_dvd.2 hx).symm
  · have hcoprime : x.Coprime p := ((Nat.Prime.coprime_iff_not_dvd hp).2 hx).symm
    obtain ⟨c, rfl⟩ := hm
    have hone : x ^ ((p - 1) * c) ≡ 1 [MOD p] := by
      simpa [pow_mul] using (Nat.ModEq.pow_card_sub_one_eq_one hp hcoprime).pow c
    simpa [pow_succ] using hone.mul_right x

/-- For distinct primes the same holds modulo their product, with a multiple of `λ` (R147). -/
theorem pow_succ_modEq_self_mul {p q m : Nat} (hp : p.Prime) (hq : q.Prime) (hne : p ≠ q) (hm : totient p q ∣ m)
    (x : Nat) : x ^ (m + 1) ≡ x [MOD p * q] :=
  (Nat.modEq_and_modEq_iff_modEq_mul ((Nat.coprime_primes hp hq).2 hne)).1
    ⟨pow_succ_modEq_self hp ((Nat.dvd_lcm_left _ _).trans hm) x,
      pow_succ_modEq_self hq ((Nat.dvd_lcm_right _ _).trans hm) x⟩

/-- The power to `d` modulo `p * q`, raised to an `e` whose inverse modulo `λ` is `d`, is the base (R131). -/
theorem pow_pow_mod_of_inverse {p q e d x : Nat} (hp : p.Prime) (hq : q.Prime) (hne : p ≠ q)
    (hinv : e * d % totient p q = 1) (hx : x < p * q) : (x ^ d % (p * q)) ^ e % (p * q) = x := by
  have hexp : d * e = totient p q * (e * d / totient p q) + 1 := by
    rw [mul_comm d e, ← hinv, Nat.div_add_mod]
  calc (x ^ d % (p * q)) ^ e % (p * q)
      = x ^ (d * e) % (p * q) := by rw [← Nat.pow_mod, ← pow_mul]
    _ = x % (p * q) := hexp ▸ pow_succ_modEq_self_mul hp hq hne (Dvd.intro _ rfl) x
    _ = x := Nat.mod_eq_of_lt hx

/-! ### The values of a generated key (R151) -/

theorem keyBits_le_keyLen (K : Nat) : K ≤ 8 * keyLen K := by
  unfold keyLen
  omega

/-- A key of at most `8 * MAXLEN` bits fits the windows (R142). -/
theorem keyLen_le {K M : Nat} (h : K ≤ 8 * M) : keyLen K ≤ M := by
  unfold keyLen
  omega

/-- A number of `K` bits fits the bytes of a key of `K` bits (R55). -/
theorem lt_keyLen_pow {K v : Nat} (hv : v < 2 ^ K) : v < 256 ^ keyLen K := by
  calc v < 2 ^ K := hv
    _ ≤ 2 ^ (8 * keyLen K) := Nat.pow_le_pow_right (by decide) (keyBits_le_keyLen K)
    _ = 256 ^ keyLen K := pow_mul 2 8 _

theorem acceptedPrime.prime {test : PrimeTest} {K p : Nat} (h : acceptedPrime test K p) (hsound : PrimeTestSound test) :
    p.Prime := by
  obtain ⟨-, -, -, draw, hverdict⟩ := h
  exact hsound p draw hverdict

/-- For a key of 24 bits or more, an accepted prime has 12 bits or more (R142, R145). -/
theorem acceptedPrime.large {test : PrimeTest} {K p : Nat} (hK : 24 ≤ K) (h : acceptedPrime test K p) : 2 ^ 11 ≤ p := by
  obtain ⟨-, hlo, -⟩ := h
  exact (Nat.pow_le_pow_right (by decide) (by omega)).trans hlo

section
variable {test : PrimeTest} {K p q : Nat}

/-- The modulus of an accepted pair has at most `K` bits (R146). -/
theorem acceptedPair.mul_lt (h : acceptedPair test K p q) : p * q < 2 ^ K := by
  obtain ⟨⟨-, -, hp, -⟩, ⟨-, -, hq, -⟩, -⟩ := h
  calc p * q < 2 ^ (K / 2) * 2 ^ (K / 2) := Nat.mul_lt_mul'' hp hq
    _ = 2 ^ (K / 2 + K / 2) := (pow_add 2 _ _).symm
    _ ≤ 2 ^ K := Nat.pow_le_pow_right (by decide) (by omega)

theorem acceptedPair.totient_gt_one (hK : 24 ≤ K) (h : acceptedPair test K p q) : 1 < totient p q := by
  obtain ⟨hp, hq, -⟩ := h
  have hp' := hp.large hK
  have hq' := hq.large hK
  have hle : p - 1 ≤ totient p q := Nat.le_of_dvd (totient_pos (by omega) (by omega)) (Nat.dvd_lcm_left _ _)
  omega

/-- `λ` has at most `K` bits (R147). -/
theorem acceptedPair.totient_lt (hK : 24 ≤ K) (h : acceptedPair test K p q) : totient p q < 2 ^ K := by
  have hlarge : 2 ^ 11 ≤ p ∧ 2 ^ 11 ≤ q := ⟨h.left.large hK, h.right.left.large hK⟩
  calc totient p q
      ≤ (p - 1) * (q - 1) :=
        Nat.le_of_dvd (Nat.mul_pos (by omega) (by omega)) (Nat.lcm_dvd_mul _ _)
    _ ≤ p * q := Nat.mul_le_mul (Nat.sub_le _ _) (Nat.sub_le _ _)
    _ < 2 ^ K := h.mul_lt

/-- A key's exponent has at most `K` bits: it is 65537, of 17 bits, or below `λ` (R148, R149). -/
theorem acceptedKey.exponent_lt {emode : Bool} {e : Nat} (hK : 24 ≤ K) (h : acceptedKey test K emode p q e) :
    e < 2 ^ K := by
  obtain ⟨hpair, -, he⟩ := h
  split at he
  · exact he.trans (hpair.totient_lt hK)
  · calc e < 2 ^ 24 := by omega
      _ ≤ 2 ^ K := Nat.pow_le_pow_right (by decide) hK

/-- The `d` of a key is below `λ`, and the inverse of its `e` (R150). -/
theorem acceptedKey.inverse {emode : Bool} {e : Nat} (hK : 24 ≤ K) (h : acceptedKey test K emode p q e) :
    modInv e (totient p q) < totient p q ∧ e * modInv e (totient p q) % totient p q = 1 := by
  obtain ⟨hpair, hcoprime, -⟩ := h
  exact modInv_spec e (totient p q) (hpair.totient_gt_one hK) hcoprime

end

/-- A KEYGEN that ends with code 0 leaves the values of an accepted key in `N`, `E_OUT` and `D_OUT`, at the width it
leaves in `LEN` (R151). -/
theorem completeKeygen_values {s : State} (hbusy : s.phase = .busy .keygen) (hm : s.mem.wf = true)
    (hlo : 24 ≤ s.keyBits) (hhi : s.keyBits ≤ 8 * s.config.maxlen) (hidle : (completeKeygen s).phase = .idle)
    (hok : (completeKeygen s).errcode = 0) :
    ∃ p q e, acceptedKey s.config.primeTest s.keyBits s.emode p q e ∧
      (completeKeygen s).len.toNat = keyLen s.keyBits ∧
      (completeKeygen s).val .n (keyLen s.keyBits) = p * q ∧
      (completeKeygen s).val .eOut (keyLen s.keyBits) = e ∧
      (completeKeygen s).val .dOut (keyLen s.keyBits) = modInv e (totient p q) := by
  obtain ⟨p, q, e, hsearch, hstate⟩ := completeKeygen_success hbusy hidle hok
  have hkey : acceptedKey s.config.primeTest s.keyBits s.emode p q e :=
    search_key (goal := .drawP) (by omega) trivial hsearch
  have hpair : acceptedPair s.config.primeTest s.keyBits p q := hkey.left
  have hL : keyLen s.keyBits ≤ s.config.maxlen := keyLen_le hhi
  have hwidth : keyLen s.keyBits < 2 ^ 16 := by
    have := maxlen_le s.config
    omega
  have hd : modInv e (totient p q) < 2 ^ s.keyBits := (hkey.inverse hlo).left.trans (hpair.totient_lt hlo)
  have hbytes := fun i (hi : i < s.config.maxlen) => win_putKey (s := s.clearReplies) p q e hm hi
  rw [hstate]
  refine ⟨p, q, e, hkey, ?_, ?_, ?_, ?_⟩
  · rw [State.complete_len, State.putKey_len]
    exact Nat.mod_eq_of_lt hwidth
  · exact val_eq_of_put_bytes (fun i hi => (hbytes i hi).1) hL (lt_keyLen_pow hpair.mul_lt)
  · exact val_eq_of_put_bytes (fun i hi => (hbytes i hi).2.1) hL (lt_keyLen_pow (hkey.exponent_lt hlo))
  · exact val_eq_of_put_bytes (fun i hi => (hbytes i hi).2.2) hL (lt_keyLen_pow hd)

/-- Settles O22: the key is of two distinct primes and its exponents are inverse modulo `λ`, so that
`pow_pow_mod_of_inverse` says what the two MODEXPs compute. -/
theorem signThenVerifyReturnsMessage : Obligations.SignThenVerifyReturnsMessage := by
  unfold Obligations.SignThenVerifyReturnsMessage
  intro s t a a' b b' hsbusy hsm _ hlo hhi hsound ht htidle htok habusy ham haconfig halen han hak hax ha'
    hbbusy hbm hbconfig hblen hbn hbk hbx hb'
  obtain rfl := completion_of_exec (op := .keygen) hsbusy ht
  obtain ⟨p, q, e, hkey, hlen, hn, he, hd⟩ := completeKeygen_values hsbusy hsm hlo hhi htidle htok
  obtain ⟨-, hinv⟩ := hkey.inverse hlo
  obtain ⟨⟨hp, hq, hne, -⟩, -⟩ := hkey
  have hL : keyLen s.keyBits ≤ s.config.maxlen := keyLen_le hhi
  simp only [completion, hlen, hn, he, hd] at halen han hak hax hblen hbn hbk hbx ⊢
  have hsigned := exec_modexp_val_r habusy ham ((congrArg BitVec.toNat halen).trans hlen) (haconfig ▸ hL)
    (han ▸ hax) ha'
  rw [hak, han] at hsigned
  have hverified := exec_modexp_val_r hbbusy hbm ((congrArg BitVec.toNat hblen).trans hlen) (hbconfig ▸ hL)
    (by rw [hbx, hbn, hsigned]; exact Nat.mod_lt _ (Nat.zero_lt_of_lt hax)) hb'
  rw [hverified, hbx, hbk, hbn, hsigned]
  exact pow_pow_mod_of_inverse (hp.prime hsound) (hq.prime hsound) hne hinv hax

end Sys2Proof.Machine
end

section
/-! ZEROIZE's start and its completion (R170): the start always passes, and no byte of a window the engine has is left. -/

namespace Sys2Proof.Machine

/-- From idle ZEROIZE starts, because its validation never fails (R100, R170). -/
theorem exec_zeroize_idle {s : State} (hidle : s.phase = .idle) :
    exec .zeroize s = .next (s.start .zeroize 0x3 .ok) := by
  simp [exec, execZeroize, validateZeroize, hidle]

/-- A byte below `MAXLEN` of a window the engine has is a byte that exists (R28). -/
theorem backed_win {c : Config} {W : Window} (hW : W.present c.hasKeygen = true) {i : Nat} (hi : i < c.maxlen) :
    backed c (W.base + i) = true :=
  backed_iff.2 ⟨W, hW, Nat.le_add_right _ _, Nat.add_lt_add_left hi _⟩

/-- Every byte of a window the engine has is 0 after ZEROIZE (R170). -/
theorem completeZeroize_win {s : State} (hm : s.mem.wf = true) {W : Window}
    (hW : W.present s.config.hasKeygen = true) {i : Nat} (hi : i < s.config.maxlen) :
    (completeZeroize s).win W i = 0 := by
  rw [State.win, read_completeZeroize hm, if_pos (backed_win hW hi)]

/-- Settles O23: the start passes (`exec_zeroize_idle`), and the completion clears every byte that exists and changes
only memory and `STATUS` (`completeZeroize_win`, `completeZeroize_shape`). -/
theorem zeroizeClearsEveryWindow : Obligations.ZeroizeClearsEveryWindow := by
  unfold Obligations.ZeroizeClearsEveryWindow
  refine ⟨fun _ => decode_of_encode_eq (i := .zeroize) rfl rfl, fun s => ⟨fun hidle => ?start, fun hbusy hm => ?done⟩⟩
  case start => rw [exec_zeroize_idle hidle, State.start_ok]
  case done =>
    exact ⟨completeZeroize s, exec_inFlight .zeroize s hbusy, fun _ hW _ hi => completeZeroize_win hm hW hi,
      completeZeroize_shape s⟩

end Sys2Proof.Machine
end

section
/-! How a command ends with an error (R184, R191): an illegal word completes in the write that brings it, and a completion
with a code other than 0 writes no window, no `LEN` and no `KBITS`. -/

namespace Sys2Proof.Machine

/-! ### Illegal words (R82, R184) -/

/-- A word whose number is not that of a command the engine has (R81) has illegal fields. -/
theorem illegalFields_of_toNat {hk : Bool} {w : Word}
    (h : 16 ≤ w.toNat ∨ w.toNat = 0 ∨ 4 ≤ w.toNat ∨ (w.toNat = 2 ∧ hk = false)) :
    illegalFields hk (rsvdField w) (opcodeField w) = true := by
  by_contra hlegal
  obtain ⟨hr, ho⟩ := illegalFields_eq_false (Bool.eq_false_of_not_eq_true hlegal)
  have hw := commandWord_fields w
  rcases ho with ho | ⟨ho, rfl⟩ | ho
  · obtain rfl : w = 1 := by rw [← hw, hr, ho]; rfl
    simp at h
  · obtain rfl : w = 2 := by rw [← hw, hr, ho]; rfl
    simp at h
  · obtain rfl : w = 3 := by rw [← hw, hr, ho]; rfl
    simp at h

/-- While idle a word written to `CMD` starts the command it decodes to (R58, R100). -/
theorem busWrite_cmd_idle {off : Offset} (hcmd : off.toNat / 4 * 4 = 0x00C) (w : Word) {s : State}
    (hidle : s.phase = .idle) : busWrite off w s = exec (decode s.config.hasKeygen w) s := by
  have htarget : target off = .cmd := target_eq_cmd_iff.2 hcmd
  rw [busWrite_idle (by simp [htarget]) w hidle, htarget, idleWrite]

/-- Settles O25: the write reaches `exec` with the illegal class, whose opcode field is the word's low four bits. -/
theorem illegalCommandCompletes : Obligations.IllegalCommandCompletes := by
  unfold Obligations.IllegalCommandCompletes
  refine fun s hidle => ⟨fun off w hcmd hw => ?_, fun rsvd opcode => exec_illegal_idle rsvd opcode hidle⟩
  rw [busWrite_cmd_idle hcmd w hidle, decode_of_illegalFields (illegalFields_of_toNat hw),
    exec_illegal_idle _ _ hidle, opcodeField_eq_ofNat]

/-! ### A completion with an error (R104, R191) -/

/-- `t` is `s` completed with an error: only `STATUS`, the phase and the RNG's answers may differ (R104, R153). -/
def CompletedOnly (s t : State) : Prop :=
  t = { s with done := true, errcode := t.errcode, lastop := t.lastop, phase := .idle, replies := t.replies }

/-- A start that ends idle has failed its validation, so that it has written `STATUS` only (R100, R101). -/
theorem start_completedOnly {op : Op} {s : State} {opcode : BitVec 4} {code : Code}
    (hidle : ((startFrom op s).start op opcode code).phase = .idle) :
    CompletedOnly s ((startFrom op s).start op opcode code) := by
  have hcode : code ≠ .ok := by
    rintro rfl
    cases hidle
  rw [CompletedOnly, State.start_error _ _ _ _ hcode, startFrom_eq]

/-- Of the completion steps only KEYGEN's can end with an error, and then its search has output nothing (R152). -/
theorem completion_completedOnly {op : Op} {s : State} (hbusy : s.phase = .busy op)
    (hidle : (completion op s).phase = .idle) (herror : (completion op s).errcode ≠ 0) :
    CompletedOnly s (completion op s) := by
  cases op with
  | modexp => exact absurd rfl herror
  | zeroize => exact absurd rfl herror
  | keygen =>
    simp only [completion] at hidle herror ⊢
    rcases completeKeygen_cases s with ⟨goal, -, hwait⟩ | ⟨p, q, e, -, hkey⟩ | ⟨code, -, -, hfail⟩
    · simp [hwait, hbusy] at hidle
    · exact absurd (congrArg State.errcode hkey) herror
    · rw [hfail]
      rfl

/-- Settles O27, by the ways `exec` can end idle: a failed start, an illegal word, or a completion step. -/
theorem errorWritesNothing : Obligations.ErrorWritesNothing := by
  unfold Obligations.ErrorWritesNothing
  intro i s t h hidle herror
  rcases exec_next h with ⟨-, ⟨op, -, -, rfl⟩ | ⟨opcode, rfl⟩⟩ | ⟨op, hbusy, -, rfl⟩ | ⟨op, hbusy, -, rfl⟩
  · exact start_completedOnly hidle
  · rfl
  · exact completion_completedOnly hbusy hidle herror
  · simp [hbusy] at hidle

end Sys2Proof.Machine
end

section
/-! Bus reads while a command is in flight (R58, R214): the windows are hidden, the registers are not. -/

namespace Sys2Proof.Machine

theorem readWindow_busy {s : State} {op : Op} (hbusy : s.phase = .busy op) (W : Window) (o : Nat) :
    s.readWindow W o = 0 := by
  rw [State.readWindow, isBusy_of_busy hbusy, if_pos rfl, ite_self]

/-- From 0x1000 on the map has windows, which are hidden, and unmapped offsets (R51, R214). -/
theorem busRead_busy_of_ge {off : Offset} {s : State} {op : Op} (hbusy : s.phase = .busy op)
    (hoff : 0x1000 ≤ off.toNat) : busRead off s = 0 := by
  have hlo : 0x1000 ≤ off.toNat / 4 * 4 := by omega
  by_cases hhi : off.toNat / 4 * 4 < 0x7000
  · obtain ⟨W, -, hwindow⟩ := targetAt_window_range hlo hhi
    rw [busRead, (target_of_offset rfl).trans hwindow]
    exact readWindow_busy hbusy W _
  · exact busRead_unstored (target_of_offset rfl ▸ targetAt_unstored (.inr (.inl (by omega))))

/-- A window is the one target whose read looks at the memory, and it is hidden (R214). -/
theorem busRead_withMem_busy {s : State} {op : Op} (hbusy : s.phase = .busy op) (off : Offset) (m : Memory) :
    busRead off (s.withMem m) = busRead off s := by
  unfold busRead
  cases target off with
  | window W o => exact (readWindow_busy (s := s.withMem m) hbusy W o).trans (readWindow_busy hbusy W o).symm
  | _ => rfl

/-- Below 0x1000 there is no window (R51). -/
theorem target_ne_window {off : Offset} (hoff : off.toNat < 0x1000) (W : Window) (o : Nat) :
    target off ≠ .window W o := by
  intro htarget
  obtain ⟨-, -, haddr⟩ := target_window htarget
  have hbase : 0x1000 ≤ W.base := by cases W <;> decide
  rw [alignedOffset] at haddr
  omega

/-- A register other than `STATUS` does not tell the phase (R214). -/
theorem busRead_register {off : Offset} (hoff : off.toNat < 0x1000) (hstatus : target off ≠ .status) (s : State)
    (p : Phase) : busRead off { s with phase := p } = busRead off s := by
  unfold busRead
  cases htarget : target off with
  | status => exact absurd htarget hstatus
  | window W o => exact absurd htarget (target_ne_window hoff W o)
  | _ => rfl

/-- A command in flight adds `BUSY`, bit 0, to `STATUS` (R85). -/
theorem statusWord_busy {s : State} {op : Op} (hbusy : s.phase = .busy op) :
    s.statusWord = { s with phase := .idle }.statusWord + 1 := by
  have hidle := statusWord_toNat { s with phase := .idle }
  rw [isBusy_of_idle rfl, Bool.toNat_false] at hidle
  have hlt := statusWord_lt s
  apply BitVec.eq_of_toNat_eq
  rw [statusWord_toNat, isBusy_of_busy hbusy, Bool.toNat_true] at hlt ⊢
  rw [BitVec.toNat_add, hidle]
  exact (Nat.mod_eq_of_lt (by omega)).symm

/-- Settles O30: only windows are read from memory, and they are hidden; only `STATUS` tells the phase. -/
theorem busyHidesWindows : Obligations.BusyHidesWindows := by
  unfold Obligations.BusyHidesWindows
  intro off s op hbusy
  refine ⟨busRead_busy_of_ge hbusy, busRead_withMem_busy hbusy off, fun hoff hne => ?_, fun hoff => ?_⟩
  · exact (busRead_register hoff (mt target_eq_status_iff.1 hne) s .idle).symm
  · have htarget := target_eq_status_iff.2 hoff
    rw [busRead_status htarget, busRead_status htarget, statusWord_busy hbusy]

end Sys2Proof.Machine
end
